-- ==== Sys2Proof/Word.lean ====
section
/-! DEFINITION. The words the block moves: bytes and the 7-bit device address (00_scope.md R17, R51). -/

namespace Sys2Proof

/-- A byte: an unsigned 8-bit value, bit 0 the least significant (00_scope.md R17). -/
abbrev Byte := BitVec 8

/-- A 7-bit I2C device address (10_state.md R21). -/
abbrev DevAddr := BitVec 7

/-- A key index, 0 to 15 (00_scope.md R18, KeyIndex). -/
abbrev KeyIndex := BitVec 4

/-- A command of a reserved opcode as it stands on the command port: the opcode and the bytes after it, to which
30_encoding.md R96 gives no meaning. -/
structure ReservedCommand where
  opcode : Byte
  operands : List Byte
deriving DecidableEq, Repr

end Sys2Proof
end

