-- ==== Sys2Proof/Config.lean ====
section
/-! DEFINITION. What one build of the block fixes: the tier, the open parameters and the constants
(00_scope.md R5 to R8), and the free values of the model. -/

namespace Sys2Proof

/-- The two build variants (00_scope.md R5). -/
inductive Tier where
  | full
  | lite
deriving DecidableEq, Repr

/-- The parameters of one build: the tier (00_scope.md R5) and the values the source needs and never
gives (R7, decision D3). They are arguments of every claim; no step of the machine writes them. -/
structure Config where
  /-- `TIER` (R5). -/
  tier : Tier
  /-- `REG_STATUS_HW_ID` (R7). -/
  regStatusHwId : Byte
  /-- `REG_STATUS_SWRST` (R7). -/
  regStatusSwrst : Byte
  /-- `HW_ID_CODE`, the expected identity byte (R7). -/
  hwIdCode : Byte
  /-- `REG_LED_PIN` (R7). -/
  regLedPin : Byte
  /-- `REG_LED_BUF_LENGTH` (R7). -/
  regLedBufLength : Byte
  /-- `REG_LED_SHOW` (R7). -/
  regLedShow : Byte
  /-- `REG_KEYPAD_EVENT` (R7). -/
  regKeypadEvent : Byte
  /-- `REG_KEYPAD_COUNT` (R7). -/
  regKeypadCount : Byte
  /-- `REG_KEYPAD_FIFO` (R7). -/
  regKeypadFifo : Byte
deriving DecidableEq, Repr

namespace Config

/-! ### The constants the document gives (00_scope.md R6, R8) -/

/-- `N_KEYS`. -/
def nKeys : Nat := 16
/-- `N_LEDS`. -/
def nLeds : Nat := 16
/-- `CHANNELS`, bytes per LED. -/
def channels : Nat := 3
/-- `BUF_LEN`, the pixel buffer length in bytes. -/
def bufLen : BitVec 16 := 48
/-- `LED_PIN`, the output pin selector; one byte (90_conflicts.md C3, decision D4). -/
def ledPin : Byte := 3
/-- `SWRST_CMD`. -/
def swrstCmd : Byte := 0xFF
/-- `EVENT_MASKS`, in the document's order; no meaning is attached to their bits (90_conflicts.md C6). -/
def eventMasks : List Byte := [0x02, 0x04, 0x09, 0x11]
/-- `FIFO_EMPTY`, the sentinel. -/
def fifoEmpty : Byte := 0xFF
/-- `PAYLOAD_LIMIT`: a write payload is strictly shorter. -/
def payloadLimit : Nat := 32
/-- `READ_LIMIT`: a read is at most this long. -/
def readLimit : Nat := 32
/-- `T_RESET_MS`, a delay argument of 32 bits (60_exceptions.md R226). -/
def tResetMs : BitVec 32 := 500
/-- `T_READ_MS`. -/
def tReadMs : BitVec 32 := 6
/-- `T_SHOW_MS`. -/
def tShowMs : BitVec 32 := 8
/-- `MOD_STATUS`. -/
def modStatus : Byte := 0x00
/-- `MOD_LED`. -/
def modLed : Byte := 0x0E
/-- `MOD_KEYPAD`. -/
def modKeypad : Byte := 0x10
/-- `REG_LED_BUF`. -/
def regLedBuf : Byte := 0x04
/-- `FRAME_BUF_CAP` (R8). -/
abbrev frameBufCap : Nat := 34
/-- `READ_BUF_CAP` (R8). -/
abbrev readBufCap : Nat := 32

/-- The nine (module id, register offset) pairs, in the order of the table of 10_state.md R30. -/
def registerPairs (c : Config) : List (Byte × Byte) :=
  [(modStatus, c.regStatusHwId), (modStatus, c.regStatusSwrst), (modLed, c.regLedPin),
   (modLed, c.regLedBufLength), (modLed, regLedBuf), (modLed, c.regLedShow),
   (modKeypad, c.regKeypadEvent), (modKeypad, c.regKeypadCount), (modKeypad, c.regKeypadFifo)]

/-- "A model that takes other parameter values must require the pairs to be pairwise different"
(30_encoding.md R105). -/
def distinct (c : Config) : Bool := decide c.registerPairs.Nodup

/-- The defaults of 00_scope.md R7. PRESUMED (GK1, GK2; log 4): the family's values, "not a fact about
the block". The tier is the model's choice (log 3). -/
def default : Config :=
  { tier := .full, regStatusHwId := 0x01, regStatusSwrst := 0x7F, hwIdCode := 0x55, regLedPin := 0x01,
    regLedBufLength := 0x03, regLedShow := 0x05, regKeypadEvent := 0x01, regKeypadCount := 0x04,
    regKeypadFifo := 0x10 }

/-- The default of `I2C_ADDR` (00_scope.md R7). PRESUMED (GK3; log 4): the operand a host gives `NEW`; no
definition of the machine reads it. -/
def i2cAddr : DevAddr := 0x2E

/-! ### Free values: what the state holds after the reset input (log 2) -/

/-- What `addr` holds after the reset input, "unspecified" (10_state.md R45, 70 R240). The argument counts the resets. -/
opaque freeAddr : Nat → DevAddr

/-- What the frame buffer holds after the reset input, "unspecified" (10_state.md R45, 70 R240). -/
opaque freeFrameBuf : Nat → Vector Byte 34

/-- What the read buffer holds after the reset input, "unspecified" (10_state.md R45, 70 R240). -/
opaque freeReadBuf : Nat → Vector Byte 32

end Config

end Sys2Proof
end

