-- ==== Sys2Proof/Syntax.lean ====
section
/-! DEFINITION. The instructions: one constructor per row of spec/opcode_table.json. -/

namespace Sys2Proof

/-- One constructor per row of spec/opcode_table.json, in the table's order. Field values are held as the
row's bit fields give them. -/
inductive Instr where
  /-- `NEW(a)`: bring-up (44_bringup.md R175, R176). -/
  | new (a : DevAddr)
  /-- `SET_LED_COLOR(index, (r, g, b))` (45_ready_ops.md R190). -/
  | setLedColor (index r g b : Byte)
  /-- `SHOW_LED` (45_ready_ops.md R191). -/
  | showLed
  /-- `READ_KEY_EVENTS(n)` (45_ready_ops.md R192). -/
  | readKeyEvents (n : Byte)
  /-- `KEYPAD_COUNT` (45_ready_ops.md R193). -/
  | keypadCount
  /-- A reserved command opcode, 0x05 to 0xFF (30_encoding.md R109), with the bytes that stand after it: the table
  of R96 gives it no operands and refuses the opcode whatever they are. -/
  | cmdReserved (x : ReservedCommand)
  /-- `WRITE_REGISTER(m, r, P)` (43_register_protocol.md R155). -/
  | writeRegister (m r : Byte) (p : List Byte)
  /-- `READ_REGISTER(m, r, n)` (43_register_protocol.md R156, R157). -/
  | readRegister (m r : Byte) (n : Nat)
  /-- The frame STATUS.SWRST (10_state.md R31). -/
  | swrst
  /-- The read of STATUS.HW_ID (10_state.md R32). -/
  | hwId
  /-- The frame LED.PIN (10_state.md R33). -/
  | ledPin
  /-- The frame LED.BUF_LENGTH (10_state.md R34). -/
  | ledBufLength
  /-- The frame LED.BUF: offset high, offset low, green, red, blue (10_state.md R35). -/
  | ledBuf (h l g r b : Byte)
  /-- The frame LED.SHOW (10_state.md R36). -/
  | ledShow
  /-- The frame KEYPAD.EVENT: row and column group of the packed key id, mask byte (10_state.md R37, R40). -/
  | keypadEvent (r c : BitVec 2) (mask : Byte)
  /-- The read of KEYPAD.COUNT (10_state.md R38). -/
  | keypadCountReg
  /-- The read of `n` bytes of KEYPAD.FIFO (10_state.md R39). -/
  | keypadFifo (n : Nat)
  /-- The event byte 0xFF (42_event_codec.md R147). -/
  | evEmpty
  /-- The event byte `0rr0cc00` (42_event_codec.md R145, R146). -/
  | evHigh (r c : BitVec 2)
  /-- The event byte `0rr0cc01`. -/
  | evLow (r c : BitVec 2)
  /-- The event byte `0rr0cc10`. -/
  | evFalling (r c : BitVec 2)
  /-- The event byte `0rr0cc11`. -/
  | evRising (r c : BitVec 2)
  /-- A malformed event byte (42_event_codec.md R148). -/
  | evMalformed (x : Byte)
  /-- `KEY_TO_WIRE(i)` (41_key_index_codec.md R135). -/
  | keyToWire (i : Byte)
  /-- `KEY_FROM_WIRE(w)` (41_key_index_codec.md R136). -/
  | keyFromWire (w : Byte)
  /-- `COLOR_TO_WIRE((r, g, b))` (40_color_codec.md R130). -/
  | colorToWire (r g b : Byte)
  /-- `EVENT_DECODE(e)` (42_event_codec.md R145). -/
  | eventDecode (e : Byte)
deriving DecidableEq, Repr

end Sys2Proof
end

