-- ==== Sys2Proof/WellFormed.lean ====
section
/-! DEFINITION. Which terms of Instr are words of their row of spec/opcode_table.json. -/

namespace Sys2Proof

/-- The term is a word of its row: its operands fit the row's pattern of bits and its lengths. An operand that a
row can hold and a rule turns into an error (an LED index of 16 or more, a slot count above 32) is well formed.
An over-long payload or read of the primitives is no word of a row (30_encoding.md R90, R91); it still has its
meaning, the error of R107 or R108; so does a byte outside format KEY given to KEY_FROM_WIRE (log 8). The mask byte
of KEYPAD_EVENT and the offset of LED_BUF may be any, as the table's rows leave them, though the block itself emits only
those of R110 (DESIGN CHOICE, log 19). -/
def Instr.wellFormed : Instr → Bool
  | .cmdReserved x => decide (5 ≤ x.opcode.toNat)
  | .writeRegister _ _ p => decide (p.length < Config.payloadLimit)
  | .readRegister _ _ n => decide (n ≤ Config.readLimit)
  | .keypadFifo n => decide (n ≤ Config.readLimit)
  | .evMalformed x => decide (x ≠ 0xFF) && decide (x &&& 0x90 ≠ 0)
  | .keyToWire i => decide (i.toNat < Config.nKeys)
  | .keyFromWire w => decide (w &&& 0xE4 = 0)
  | .new _ => true
  | .setLedColor _ _ _ _ => true
  | .showLed => true
  | .readKeyEvents _ => true
  | .keypadCount => true
  | .swrst => true
  | .hwId => true
  | .ledPin => true
  | .ledBufLength => true
  | .ledBuf _ _ _ _ _ => true
  | .ledShow => true
  | .keypadEvent _ _ _ => true
  | .keypadCountReg => true
  | .evEmpty => true
  | .evHigh _ _ => true
  | .evLow _ _ => true
  | .evFalling _ _ => true
  | .evRising _ _ => true
  | .colorToWire _ _ _ => true
  | .eventDecode _ => true

end Sys2Proof
end

