-- ==== Sys2Proof/Decode.lean ====
section
/-! DEFINITION. The decoder, total on any packet and rejecting by name, and the encoder, both written from
30_encoding.md and spec/opcode_table.json. -/

namespace Sys2Proof

/-- Where an instruction is presented. The formats overlap (`00 7F FF` is the SWRST frame and a WRITE_REGISTER;
0x02 is SHOW_LED and an event byte; one pattern serves KEY_TO_WIRE and KEY_FROM_WIRE), so the port is part of the
word (log 5). The hardware's host has the port `command` alone; the others expose the inner layers
(43_register_protocol.md R157). -/
inductive Port where
  /-- Format CMD (30_encoding.md R96). -/
  | command
  /-- Format WF, any register: WRITE_REGISTER (R90). -/
  | writeRegister
  /-- Format RF, any register: READ_REGISTER (R91). -/
  | readRegister
  /-- The named write frames of R92. -/
  | writeFrame
  /-- The named read sequences of R92. -/
  | readFrame
  /-- The classes of format EV (R93). -/
  | eventByte
  /-- Format EV, the operation EVENT_DECODE. -/
  | eventDecode
  /-- Format KEY, the output of KEY_TO_WIRE (R94). -/
  | keyToWire
  /-- Format KEY, the input of KEY_FROM_WIRE (R94). -/
  | keyFromWire
  /-- Format COL, the output of COLOR_TO_WIRE (R95). -/
  | colorToWire
deriving DecidableEq, Repr

/-- One instruction as presented: its port, its bytes in wire order, and the read length, which the block gives to
the transport and does not send as data (30_encoding.md R91); 0 on the ports that read nothing. -/
structure Packet where
  port : Port
  bytes : List Byte
  len : Nat
deriving DecidableEq, Repr

/-- Why a packet is no instruction. -/
inductive Reject where
  /-- The number of bytes is not that of the row, or a read length stands where none is carried. -/
  | wrongLength
  /-- Bit 7 of the address byte of NEW is set: "a value above 0x7F cannot be presented" (10_state.md R21). -/
  | addressTooWide
  /-- The first two bytes are none of the registers of 10_state.md R30 that the port serves. -/
  | unknownRegister
  /-- The payload has no shape of the register, a fixed byte of it is another, or the read length is not the register's
  (30_encoding.md R92, R110). -/
  | neverEmitted
  /-- The byte is not of format KEY, so no output of KEY_TO_WIRE (30_encoding.md R94). -/
  | notKeyPattern
deriving DecidableEq, Repr

/-! ### Bit fields -/

/-- Format KEY: `000rr0cc` (30_encoding.md R94). -/
def keyByte (r c : BitVec 2) : Byte := 0#3 ++ r ++ 0#1 ++ c

/-- The row field of a byte `000rr0cc`. -/
def keyRow (w : Byte) : BitVec 2 := w.extractLsb' 3 2

/-- The column field of a byte `000rr0cc`. -/
def keyCol (w : Byte) : BitVec 2 := w.extractLsb' 0 2

/-- Whether a byte is of format KEY: bits 7:5 and bit 2 are 0. -/
def isKeyByte (w : Byte) : Bool := decide (w &&& 0xE4 = 0)

/-- Format EV, well-formed event: `0rr0cckk` (30_encoding.md R93). -/
def eventByte (r c k : BitVec 2) : Byte := 0#1 ++ r ++ 0#1 ++ c ++ k

/-! ### Decoding, port by port -/

/-- Format CMD (30_encoding.md R96). A reserved opcode is told by its byte alone, whatever follows (R109, 60_exceptions.md
R217). -/
def decodeCommand : List Byte → Except Reject Instr
  | [] => .error .wrongLength
  | op :: args =>
    if op = 0x00 then
      match args with
      | [a] => if a.msb then .error .addressTooWide else .ok (.new (a.setWidth 7))
      | _ => .error .wrongLength
    else if op = 0x01 then
      match args with
      | [i, r, g, b] => .ok (.setLedColor i r g b)
      | _ => .error .wrongLength
    else if op = 0x02 then
      match args with
      | [] => .ok .showLed
      | _ => .error .wrongLength
    else if op = 0x03 then
      match args with
      | [n] => .ok (.readKeyEvents n)
      | _ => .error .wrongLength
    else if op = 0x04 then
      match args with
      | [] => .ok .keypadCount
      | _ => .error .wrongLength
    else
      .ok (.cmdReserved ⟨op, args⟩)

/-- The named write frames of 30_encoding.md R92; the register is told by bytes 0 and 1 (R105). A SWRST, pin, length or
show payload the block never emits (R110) is no word of the port. The mask byte of KEYPAD_EVENT and the offset of LED_BUF
are operands of their rows of the opcode table and are taken at every value, also where R37, R35 and R110 say that the
block never emits it (DESIGN CHOICE, log 19). -/
def decodeWriteFrame (c : Config) : List Byte → Except Reject Instr
  | m :: r :: p =>
    if (m, r) = (Config.modStatus, c.regStatusSwrst) then
      if p = [Config.swrstCmd] then .ok .swrst else .error .neverEmitted
    else if (m, r) = (Config.modLed, c.regLedPin) then
      if p = [Config.ledPin] then .ok .ledPin else .error .neverEmitted
    else if (m, r) = (Config.modLed, c.regLedBufLength) then
      if p = [0x00, 0x30] then .ok .ledBufLength else .error .neverEmitted
    else if (m, r) = (Config.modLed, Config.regLedBuf) then
      match p with
      | [h, l, g, rd, b] => .ok (.ledBuf h l g rd b)
      | _ => .error .neverEmitted
    else if (m, r) = (Config.modLed, c.regLedShow) then
      if p = [] then .ok .ledShow else .error .neverEmitted
    else if (m, r) = (Config.modKeypad, c.regKeypadEvent) then
      match p with
      | [w, mask] =>
        if isKeyByte w then .ok (.keypadEvent (keyRow w) (keyCol w) mask) else .error .neverEmitted
      | _ => .error .neverEmitted
    else .error .unknownRegister
  | _ => .error .wrongLength

/-- The named read sequences of 30_encoding.md R92; HW_ID and KEYPAD_COUNT read one byte. -/
def decodeReadFrame (c : Config) (len : Nat) : List Byte → Except Reject Instr
  | [m, r] =>
    if (m, r) = (Config.modStatus, c.regStatusHwId) then
      if len = 1 then .ok .hwId else .error .neverEmitted
    else if (m, r) = (Config.modKeypad, c.regKeypadCount) then
      if len = 1 then .ok .keypadCountReg else .error .neverEmitted
    else if (m, r) = (Config.modKeypad, c.regKeypadFifo) then .ok (.keypadFifo len)
    else .error .unknownRegister
  | _ => .error .wrongLength

/-- The class of one event byte (30_encoding.md R93, R109); the sentinel first (42_event_codec.md R147). -/
def decodeEventByte (e : Byte) : Instr :=
  if e = Config.fifoEmpty then .evEmpty
  else if e &&& 0x90 ≠ 0 then .evMalformed e
  else
    let r := e.extractLsb' 5 2
    let c := e.extractLsb' 2 2
    match e.extractLsb' 0 2 with
    | 0#2 => .evHigh r c
    | 1#2 => .evLow r c
    | 2#2 => .evFalling r c
    | 3#2 => .evRising r c

/-- A decoder of one byte, applied to a packet's bytes. -/
def oneByte (f : Byte → Except Reject Instr) : List Byte → Except Reject Instr
  | [x] => f x
  | _ => .error .wrongLength

/-- The decoder: total on any packet. A packet with a read length on a port that carries none is no word. A byte outside
format KEY given to KEY_FROM_WIRE, an over-long payload and an over-long read are handed on to their error (log 8, log 18). -/
def decode (c : Config) (p : Packet) : Except Reject Instr :=
  match p.port with
  | .readRegister =>
    match p.bytes with
    | [m, r] => .ok (.readRegister m r p.len)
    | _ => .error .wrongLength
  | .readFrame => decodeReadFrame c p.len p.bytes
  | port =>
    if p.len ≠ 0 then .error .wrongLength
    else
      match port with
      | .command => decodeCommand p.bytes
      | .writeRegister =>
        match p.bytes with
        | m :: r :: pl => .ok (.writeRegister m r pl)
        | _ => .error .wrongLength
      | .writeFrame => decodeWriteFrame c p.bytes
      | .eventByte => oneByte (fun e => .ok (decodeEventByte e)) p.bytes
      | .eventDecode => oneByte (fun e => .ok (.eventDecode e)) p.bytes
      | .keyToWire =>
        oneByte (fun w => if isKeyByte w then .ok (.keyToWire (0#4 ++ keyRow w ++ keyCol w)) else .error .notKeyPattern)
          p.bytes
      | .keyFromWire =>
        oneByte (fun w => .ok (.keyFromWire w)) p.bytes
      | .colorToWire =>
        match p.bytes with
        | [g, r, b] => .ok (.colorToWire r g b)
        | _ => .error .wrongLength
      | .readRegister => .error .wrongLength
      | .readFrame => .error .wrongLength

/-! ### Encoding -/

/-- The word of an instruction, from the formats of 30_encoding.md R90 to R96. -/
def encode (c : Config) : Instr → Packet
  | .new a => ⟨.command, [0x00, 0#1 ++ a], 0⟩
  | .setLedColor i r g b => ⟨.command, [0x01, i, r, g, b], 0⟩
  | .showLed => ⟨.command, [0x02], 0⟩
  | .readKeyEvents n => ⟨.command, [0x03, n], 0⟩
  | .keypadCount => ⟨.command, [0x04], 0⟩
  | .cmdReserved x => ⟨.command, x.opcode :: x.operands, 0⟩
  | .writeRegister m r p => ⟨.writeRegister, m :: r :: p, 0⟩
  | .readRegister m r n => ⟨.readRegister, [m, r], n⟩
  | .swrst => ⟨.writeFrame, [Config.modStatus, c.regStatusSwrst, Config.swrstCmd], 0⟩
  | .hwId => ⟨.readFrame, [Config.modStatus, c.regStatusHwId], 1⟩
  | .ledPin => ⟨.writeFrame, [Config.modLed, c.regLedPin, Config.ledPin], 0⟩
  | .ledBufLength => ⟨.writeFrame, [Config.modLed, c.regLedBufLength, 0x00, 0x30], 0⟩
  | .ledBuf h l g r b => ⟨.writeFrame, [Config.modLed, Config.regLedBuf, h, l, g, r, b], 0⟩
  | .ledShow => ⟨.writeFrame, [Config.modLed, c.regLedShow], 0⟩
  | .keypadEvent r cl mask => ⟨.writeFrame, [Config.modKeypad, c.regKeypadEvent, keyByte r cl, mask], 0⟩
  | .keypadCountReg => ⟨.readFrame, [Config.modKeypad, c.regKeypadCount], 1⟩
  | .keypadFifo n => ⟨.readFrame, [Config.modKeypad, c.regKeypadFifo], n⟩
  | .evEmpty => ⟨.eventByte, [Config.fifoEmpty], 0⟩
  | .evHigh r cl => ⟨.eventByte, [eventByte r cl 0], 0⟩
  | .evLow r cl => ⟨.eventByte, [eventByte r cl 1], 0⟩
  | .evFalling r cl => ⟨.eventByte, [eventByte r cl 2], 0⟩
  | .evRising r cl => ⟨.eventByte, [eventByte r cl 3], 0⟩
  | .evMalformed x => ⟨.eventByte, [x], 0⟩
  | .keyToWire i => ⟨.keyToWire, [keyByte (i.extractLsb' 2 2) (i.extractLsb' 0 2)], 0⟩
  | .keyFromWire w => ⟨.keyFromWire, [w], 0⟩
  | .colorToWire r g b => ⟨.colorToWire, [g, r, b], 0⟩
  | .eventDecode e => ⟨.eventDecode, [e], 0⟩

/-! ### Words of the opcode table

The table numbers a row's bits with bit 0 the least significant bit of the LAST byte (NEW is
`00000000 0aaaaaaa` with `a` at bits 6:0), so byte 0 is the most significant (log 13). -/

/-- The `n` bytes of a number, the most significant first. -/
def bytesOfNat : Nat → Nat → List Byte
  | 0, _ => []
  | n + 1, w => BitVec.ofNat 8 (w >>> (8 * n)) :: bytesOfNat n w

/-- The packets a table word can be, in the order they are tried: the named frames, a command (no reserved
opcode), an event byte, a color, then the primitives (log 13). -/
def tableCandidates (bs : List Byte) : List Packet :=
  [⟨.writeFrame, bs, 0⟩, ⟨.readFrame, bs, 0⟩, ⟨.readFrame, bs, 1⟩, ⟨.command, bs, 0⟩, ⟨.eventByte, bs, 0⟩,
   ⟨.colorToWire, bs, 0⟩, ⟨.readRegister, bs, 0⟩, ⟨.writeRegister, bs, 0⟩]

/-- Whether a candidate is taken: it decodes, and to no reserved opcode. -/
def tableTakes (c : Config) (p : Packet) : Bool :=
  match decode c p with
  | .ok (.cmdReserved _) => false
  | .ok _ => true
  | .error _ => false

/-- The packet of a word of the opcode table: the first candidate that decodes; the last one where none does. -/
def tablePacket (c : Config) (nbits w : Nat) : Packet :=
  let bs := bytesOfNat ((nbits + 7) / 8) w
  ((tableCandidates bs).find? (tableTakes c)).getD ⟨.writeRegister, bs, 0⟩

/-- The instruction this decoder reads from a word of the opcode table, under the default parameters, which are the
ones the table's frames show. -/
def decodeTableWord (nbits w : Nat) : Option Instr :=
  match decode Config.default (tablePacket Config.default nbits w) with
  | .ok i => some i
  | .error _ => none

end Sys2Proof
end

