-- ==== Sys2Proof/Machine/State.lean ====
section
/-! DEFINITION. The state of the block as plain data, its channels, the errors and results it hands out, and the
state after reset (10_state.md R20 to R26, R45). -/

namespace Sys2Proof.Machine

/-- `st`, the lifecycle state (10_state.md R20). -/
inductive Lifecycle where
  | uninitialized
  | ready
  | faulted
deriving DecidableEq, Repr

/-- EdgeKind (10_state.md R42). -/
inductive EdgeKind where
  | high
  | low
  | falling
  | rising
deriving DecidableEq, Repr

/-- KeypadEvent: the pair (KeyIndex, EdgeKind) (00_scope.md R18). -/
structure KeypadEvent where
  key : KeyIndex
  kind : EdgeKind
deriving DecidableEq, Repr

/-- A transport's error: opaque, "never inspected, only wrapped" (20_memory.md R63). The number only tells errors
apart. -/
structure TransportError where
  code : Nat
deriving DecidableEq, Repr

/-- The reasons of a ContractViolation (60_exceptions.md R217). -/
inductive ContractReason where
  | payloadTooLong
  | ledIndexRange
  | readTooLong
  | keyIndexRange
  | badState
  | unsupported
  | badCommand
  | faulted
deriving DecidableEq, Repr

/-- The reasons of a DecodeFault (60_exceptions.md R218); BadKind has no instance there and is left out, as R218
allows. -/
inductive DecodeReason where
  | malformedKey
deriving DecidableEq, Repr

/-- The five error kinds (60_exceptions.md R210) with what each records. They are results, not stops. -/
inductive ErrKind where
  | writeFault (e : TransportError)
  | readFault (e : TransportError)
  | wrongIdentity
  | contractViolation (why : ContractReason)
  | decodeFault (why : DecodeReason)
deriving DecidableEq, Repr

/-- The value of a result (10_state.md R25): nothing, one byte, the slots of READ_KEY_EVENTS; and for an inner
layer's operation issued on its own (log 5) its bytes, one slot, a key index, or the identity byte with the outcome
of its comparison (log 11). -/
inductive Value where
  | unit
  | byte (b : Byte)
  | slots (l : List (Option KeypadEvent))
  | bytes (l : List Byte)
  | slot (e : Option KeypadEvent)
  | key (i : KeyIndex)
  | identity (b : Byte) (expected : Bool)
deriving DecidableEq, Repr

/-- The result of a command (10_state.md R25). -/
inductive Result where
  | ok (v : Value)
  | err (k : ErrKind)
deriving DecidableEq, Repr

/-- One answer of the oracle to a bus request (20_memory.md R60 to R62, R66): `Err(e)`, or `Ok` with what the
transport puts into a read buffer; a read of `n` bytes, `n` at most 32, delivers the first `n`, so that every answer
carries exactly as many bytes as were asked for, and a write's answer carries none (log 6). -/
inductive BusAnswer where
  | err (e : TransportError)
  | ok (data : Vector Byte 32)
deriving DecidableEq, Repr

/-- The answer to a write, as the trace shows it. -/
inductive WriteAnswer where
  | ok
  | err (e : TransportError)
deriving DecidableEq, Repr

/-- The answer to a read, as the trace shows it. -/
inductive ReadAnswer where
  | ok (bs : List Byte)
  | err (e : TransportError)
deriving DecidableEq, Repr

/-- One event of a trace: a bus request with its answer, or a delay (00_scope.md R17, R19). -/
inductive Event where
  /-- `TW(a, X)` (20_memory.md R60). -/
  | tw (a : DevAddr) (x : List Byte) (ans : WriteAnswer)
  /-- `TR(a, n)` (20_memory.md R61). -/
  | tr (a : DevAddr) (n : Nat) (ans : ReadAnswer)
  /-- `TWR(a, X, n)` (20_memory.md R62). -/
  | twr (a : DevAddr) (x : List Byte) (n : Nat) (ans : ReadAnswer)
  /-- `DLY(ms)` (20_memory.md R65), the argument 32 bits wide (60_exceptions.md R226). -/
  | dly (ms : BitVec 32)
deriving DecidableEq, Repr

/-- What the block is: its own state (10_state.md R20 to R25), the parameters of its build (00_scope.md R5, R7; no
step writes them, log 3), and its four channels to the host, the transport and the delay primitive (decision D1). -/
@[ext]
structure State where
  /-- The lifecycle state (R20). -/
  st : Lifecycle
  /-- The device address (R21). -/
  addr : DevAddr
  /-- The frame buffer `FB` (R24). -/
  fb : Vector Byte Config.frameBufCap
  /-- The read buffer `RB` (R24). -/
  rb : Vector Byte Config.readBufCap
  /-- The operation in progress, if any (R23, R45). -/
  current : Option Instr
  /-- The index of the next event of the operation in progress (R23). -/
  seq : Nat
  /-- The last result handed to the host (R25). -/
  result : Option Result
  /-- The build (00_scope.md R5, R7). -/
  cfg : Config
  /-- Channel in: the operations offered, oldest first (60_exceptions.md R232). -/
  cmdIn : List Packet
  /-- Channel in: the answers the oracle gives to the next bus requests, in order; none left is an oracle that does
  not answer (20_memory.md R66, 70 R249). -/
  busIn : List BusAnswer
  /-- Channel in: how many further delay requests the delay primitive completes (20_memory.md R65, 70 R249). -/
  delayIn : Nat
  /-- The reset input (70_reset_and_hazards.md R240). -/
  resetIn : Bool
  /-- The model's own counter of the resets taken; only the free values of log 2 read it. -/
  epoch : Nat
  /-- Channel out: the events so far, oldest first (00_scope.md R19). -/
  trace : List Event
deriving DecidableEq, Repr

/-- Stops of the machine: none. Every error of the spec is a result (60_exceptions.md R210, R220), a request that
is never answered is a state that does not change (70 R249), and nothing else stops the block. So this type has no
constructor, and no step can answer with a fault. -/
inductive Fault where
deriving DecidableEq, Repr

/-- Why an instruction has no meaning. No step answers so: every packet that decodes has its meaning, and what decodes to
nothing is not presented to the block (log 5). -/
inductive Refusal where
  /-- Raised by `exec` for an instruction that has no meaning yet; no arm raises it. Safe: the machine stops. -/
  | notModelled (mnemonic : String)
deriving DecidableEq, Repr

/-- The block right after reset (10_state.md R45). `addr` and the buffers are unspecified there and hold 0 here
(DESIGN CHOICE, log 1); the build is the default one (log 3, log 4); nothing is offered or answered yet. -/
def State.reset : State :=
  { st := .uninitialized
    addr := 0
    fb := Vector.replicate 34 0
    rb := Vector.replicate 32 0
    current := none
    seq := 0
    result := none
    cfg := Config.default
    cmdIn := []
    busIn := []
    delayIn := 0
    resetIn := false
    epoch := 0
    trace := [] }

end Sys2Proof.Machine
end

