-- ==== Sys2Proof/Machine/Operands.lean ====
section
/-! DEFINITION. Operand assembly (30_encoding.md R98 to R104) and the pure codecs (40 R130, 41 R135 to R140,
42 R145 to R148). -/

namespace Sys2Proof.Machine

/-- `hi8(v)` (00_scope.md R17). -/
def hi8 (v : BitVec 16) : Byte := v.extractLsb' 8 8

/-- `lo8(v)` (00_scope.md R17). -/
def lo8 (v : BitVec 16) : Byte := v.extractLsb' 0 8

/-- `be16(v)`: the more significant byte first (30_encoding.md R98). -/
def be16 (v : BitVec 16) : List Byte := [hi8 v, lo8 v]

/-- The LED offset `zext_16(index) * 3` (30_encoding.md R99). -/
def ledOffset (index : Byte) : BitVec 16 := index.setWidth 16 * 3

/-- `COLOR_TO_WIRE((r, g, b))` (40_color_codec.md R130). -/
def colorToWire (r g b : Byte) : List Byte := [g, r, b]

/-- The formula of the packed key id, on 8 bits (30_encoding.md R100). -/
def packKey (i : Byte) : Byte := ((i &&& 0x0C) <<< 1) ||| (i &&& 0x03)

/-- `KEY_TO_WIRE(i)`: the packed key id, or ContractViolation(KeyIndexRange) for an index of 16 or more
(41_key_index_codec.md R135, R139). -/
def keyToWire (i : Byte) : Except ErrKind Byte :=
  if i.toNat < Config.nKeys then .ok (packKey i) else .error (.contractViolation .keyIndexRange)

/-- `raw_from_wire(w)` (41_key_index_codec.md R136). -/
def rawFromWire (w : Byte) : Byte := ((w &&& 0xF8) >>> 1) ||| (w &&& 0x03)

/-- `in_image(w)` (41_key_index_codec.md R136). -/
def inImage (w : Byte) : Bool := decide (w &&& 0xE4 = 0)

/-- `KEY_FROM_WIRE(w)`: the key index, none outside the image (41_key_index_codec.md R136, R140). -/
def keyFromWire (w : Byte) : Option KeyIndex :=
  if inImage w then some ((rawFromWire w).setWidth 4) else none

/-- `KIND(k)` (42_event_codec.md R146). -/
def kindOf : BitVec 2 → EdgeKind
  | 0#2 => .high
  | 1#2 => .low
  | 2#2 => .falling
  | 3#2 => .rising

/-- The code of an EdgeKind (10_state.md R42). -/
def kindCode : EdgeKind → BitVec 2
  | .high => 0
  | .low => 1
  | .falling => 2
  | .rising => 3

/-- The packed key id of an event byte, 6 bits widened to a byte (30_encoding.md R102). -/
def eventKey (e : Byte) : Byte := e >>> 2

/-- The kind code of an event byte (30_encoding.md R102). -/
def eventKind (e : Byte) : BitVec 2 := e.extractLsb' 0 2

/-- `EVENT_DECODE(e)`: sentinel first, then the key field, which must be a packed key id
(42_event_codec.md R145, R147, R148). -/
def eventDecode (e : Byte) : Except ErrKind (Option KeypadEvent) :=
  if e = Config.fifoEmpty then .ok none
  else
    match keyFromWire (eventKey e) with
    | some i => .ok (some ⟨i, kindOf (eventKind e)⟩)
    | none => .error (.decodeFault .malformedKey)

/-- The decoding of a read's bytes slot by slot, the malformed byte of the lowest slot deciding
(45_ready_ops.md R192, 60 R214). -/
def decodeSlots : List Byte → Except ErrKind (List (Option KeypadEvent))
  | [] => .ok []
  | b :: bs =>
    match eventDecode b with
    | .error k => .error k
    | .ok slot =>
      match decodeSlots bs with
      | .error k => .error k
      | .ok slots => .ok (slot :: slots)

end Sys2Proof.Machine
end

