-- ==== Sys2Proof/Machine/Flags.lean ====
section
/-! DEFINITION. The result of a command, "the block's only flags" (10_state.md R25): which errors are fail-fast
(60_exceptions.md R210, R216), the status codes (R210) and format RES (30_encoding.md R97). -/

namespace Sys2Proof.Machine

/-- The class of an error: fail-fast and sticky, or recoverable (60_exceptions.md R210, R216). -/
def ErrKind.failFast : ErrKind → Bool
  | .writeFault _ => false
  | .readFault _ => false
  | .wrongIdentity => false
  | .contractViolation _ => true
  | .decodeFault _ => true

/-- The status code of an error (60_exceptions.md R210, decision D16). -/
def ErrKind.code : ErrKind → Byte
  | .writeFault _ => 1
  | .readFault _ => 2
  | .wrongIdentity => 3
  | .contractViolation _ => 4
  | .decodeFault _ => 5

/-- The status code of a result; 0 is Ok (60_exceptions.md R210). -/
def Result.status : Result → Byte
  | .ok _ => 0
  | .err k => k.code

/-- One slot of format RES: 0xFF for `None`, else `(key_index << 2) | kind_code` (30_encoding.md R97). -/
def slotByte : Option KeypadEvent → Byte
  | none => 0xFF
  | some e => ((0#4 ++ e.key) <<< 2) ||| (0#6 ++ kindCode e.kind)

/-- The bytes of a value after the status byte. R97 gives them for the host's commands; for an operation of an inner
layer issued on its own they are its bytes in order (log 5). -/
def Value.bytesOut : Value → List Byte
  | .unit => []
  | .byte b => [b]
  | .slots l => l.map slotByte
  | .bytes l => l
  | .slot e => [slotByte e]
  | .key i => [0#4 ++ i]
  | .identity b _ => [b]

/-- Format RES, the result port of a bit-level harness (30_encoding.md R97). -/
def Result.encode : Result → List Byte
  | .ok v => 0 :: v.bytesOut
  | .err k => [k.code]

end Sys2Proof.Machine
end

