-- ==== Sys2Proof/Machine/Ops.lean ====
section
/-! DEFINITION. The named operations over the state: the staging buffers, the end of an operation, raising an error
(the spec's "trap entry", 60_exceptions.md R216), one event of a trace, the run of a body, the checks of a command,
the two primitives of the register protocol layer, and the reset input. -/

namespace Sys2Proof.Machine

/-! ### Staging buffers (10_state.md R24) -/

/-- `ys` with its first elements overwritten by `xs`; never longer than `ys`. -/
def overlayList : List Byte → List Byte → List Byte
  | [], ys => ys
  | _ :: _, [] => []
  | x :: xs, _ :: ys => x :: overlayList xs ys

theorem overlayList_length (xs ys : List Byte) : (overlayList xs ys).length = ys.length := by
  induction xs generalizing ys with
  | nil => rfl
  | cons x xs ih =>
    cases ys with
    | nil => rfl
    | cons y ys => simp [overlayList, ih]

/-- A buffer with its first bytes overwritten, its capacity unchanged. -/
def overlay {n : Nat} (xs : List Byte) (v : Vector Byte n) : Vector Byte n :=
  ⟨(overlayList xs v.toList).toArray, by simp [overlayList_length]⟩

/-- `FB[0], FB[1], … <- xs` (43_register_protocol.md R155). -/
def State.stage (xs : List Byte) (s : State) : State := { s with fb := overlay xs s.fb }

/-- `FB[0 : k]`. -/
def State.frame (k : Nat) (s : State) : List Byte := s.fb.toList.take k

/-- `RB[0 : |bs|] <- bs` (43_register_protocol.md R156). -/
def State.receive (bs : List Byte) (s : State) : State := { s with rb := overlay bs s.rb }

/-- `RB[0 : k]`. -/
def State.received (k : Nat) (s : State) : List Byte := s.rb.toList.take k

/-! ### Channels -/

/-- One more event on the trace (00_scope.md R19). -/
def State.log (e : Event) (s : State) : State := { s with trace := s.trace ++ [e] }

/-- The oracle's next answer is taken. -/
def State.answered (rest : List BusAnswer) (s : State) : State := { s with busIn := rest }

/-- One delay has passed; `k` more will (20_memory.md R65). -/
def State.elapsed (k : Nat) (s : State) : State := { s with delayIn := k }

/-- `seq` advances by one (10_state.md R23). -/
def State.advance (s : State) : State := { s with seq := s.seq + 1 }

/-! ### How an operation begins and ends -/

/-- An operation is accepted: it is in progress, at the first event of its body (10_state.md R23). -/
def State.accept (i : Instr) (s : State) : State := { s with current := some i, seq := 0 }

/-- An operation ends and hands its result to the host, in place of the one before it (10_state.md R25). -/
def State.finish (r : Result) (s : State) : State := { s with current := none, seq := 0, result := some r }

/-- RAISING AN ERROR, the one operation for every kind (60_exceptions.md R216): the operation ends with `Err(kind)`,
nothing is rolled back and nothing more is sent; `st` becomes `Faulted` for the fail-fast kinds and stays otherwise.
There is no saved state, no vector and no handler (R220, R222): the error is a result, and the "return" is the
host's next command. -/
def State.raise (k : ErrKind) (s : State) : State :=
  { s.finish (.err k) with st := if k.failFast then .faulted else s.st }

/-- The end of an operation whose value may be an error. -/
def State.conclude (r : Except ErrKind Value) (s : State) : State :=
  match r with
  | .ok v => s.finish (.ok v)
  | .error k => s.raise k

/-- `return Ok`, the end of an operation without a value. -/
def finishUnit (s : State) : State := s.finish (.ok .unit)

/-- `return B[0]`, the end of a one-byte read (43_register_protocol.md R156). -/
def finishByte (s : State) : State := s.finish (.ok (.byte s.rb[0]))

/-- `return RB[0 : n]`, the end of a read (43_register_protocol.md R156). -/
def finishRead (n : Nat) (s : State) : State := s.finish (.ok (.bytes (s.received n)))

/-! ### One event -/

/-- One element of an operation's body: a bus request or a delay, or the raising of an error at that point, which is
no event. -/
inductive Act where
  /-- Assemble the frame `[m, r] ++ p` in FB and write it (43_register_protocol.md R155, R156). -/
  | tw (m r : Byte) (p : List Byte)
  /-- Read `n` bytes into RB; where a byte is expected, compare it with the first byte read, else WrongIdentity
  (R156; 44_bringup.md R175 step 3). -/
  | tr (n : Nat) (expect : Option Byte)
  /-- Assemble `[m, r]` in FB, write it and read `n` bytes in one transaction (R157). -/
  | twr (m r : Byte) (n : Nat)
  /-- Block for `ms` milliseconds (20_memory.md R65). -/
  | dly (ms : BitVec 32)
  /-- Raise an error before any request (60_exceptions.md R217). -/
  | raise (k : ErrKind)
deriving DecidableEq, Repr

/-- What an act comes to: the body goes on, an error is raised, or the request has no answer yet. -/
inductive Verdict where
  | done (s : State)
  | raised (k : ErrKind) (s : State)
  | waiting (s : State)

/-- What the read just completed comes to: the identity comparison, where one is asked for (44_bringup.md R179). -/
def compareIdentity (expect : Option Byte) (bs : List Byte) (s : State) : Verdict :=
  match expect with
  | none => .done s.advance
  | some id => if bs = [id] then .done s.advance else .raised .wrongIdentity s

/-- One act. A request takes the oracle's next answer and is logged with it; an `Err` raises WriteFault on a `TW`
(60_exceptions.md R211) and ReadFault on a `TR` or `TWR` (R212); without an answer the block waits (70 R249). -/
def perform (a : Act) (s : State) : Verdict :=
  match a with
  | .tw m r p =>
    let s1 := s.stage (m :: r :: p)
    let x := s1.frame (p.length + 2)
    match s1.busIn with
    | [] => .waiting s1
    | .err e :: rest => .raised (.writeFault e) ((s1.answered rest).log (.tw s1.addr x (.err e)))
    | .ok _ :: rest => .done ((s1.answered rest).log (.tw s1.addr x .ok)).advance
  | .tr n expect =>
    match s.busIn with
    | [] => .waiting s
    | .err e :: rest => .raised (.readFault e) ((s.answered rest).log (.tr s.addr n (.err e)))
    | .ok data :: rest =>
      let bs := data.toList.take n
      compareIdentity expect bs (((s.answered rest).receive bs).log (.tr s.addr n (.ok bs)))
  | .twr m r n =>
    let s1 := s.stage [m, r]
    let x := s1.frame 2
    match s1.busIn with
    | [] => .waiting s1
    | .err e :: rest => .raised (.readFault e) ((s1.answered rest).log (.twr s1.addr x n (.err e)))
    | .ok data :: rest =>
      let bs := data.toList.take n
      .done (((s1.answered rest).receive bs).log (.twr s1.addr x n (.ok bs))).advance
  | .dly ms =>
    match s.delayIn with
    | 0 => .waiting s
    | k + 1 => .done ((s.elapsed k).log (.dly ms)).advance
  | .raise k => .raised k s

/-! ### A whole body -/

/-- The run of a body, act after act, the first error ending it (60_exceptions.md R214); `finish` is what follows the
last act. A request without an answer leaves the operation in progress at that event. -/
def runActs (finish : State → State) : List Act → State → State
  | [], s => finish s
  | a :: rest, s =>
    match perform a s with
    | .done s' => runActs finish rest s'
    | .raised k s' => s'.raise k
    | .waiting s' => s'

/-- An operation with no checks of its own: it is taken only when none is in progress (60_exceptions.md R232). It asks
neither for a lifecycle state nor for a tier (DEDUCED, log 10). -/
def operate (i : Instr) (body : List Act) (finish : State → State) (s : State) : State :=
  match s.current with
  | some _ => s
  | none => runActs finish body (s.accept i)

/-- The checks every command begins with, in the order of 60_exceptions.md R213: not Faulted, offered on this tier,
the state it needs, its own operand check. -/
def commandCheck (offered : Bool) (needs : Lifecycle) (operand : Option ContractReason) (s : State) :
    Option ContractReason :=
  if s.st = .faulted then some .faulted
  else if offered = false then some .unsupported
  else if s.st ≠ needs then some .badState
  else operand

/-- A command: the checks, then the body; a failed check raises ContractViolation with nothing sent
(60_exceptions.md R213, R216). `prepare` is what the body does before its first event. -/
def command (i : Instr) (offered : Bool) (needs : Lifecycle) (operand : Option ContractReason)
    (prepare : State → State) (body : List Act) (finish : State → State) (s : State) : State :=
  match s.current with
  | some _ => s
  | none =>
    match commandCheck offered needs operand s with
    | some why => s.raise (.contractViolation why)
    | none => runActs finish body (prepare (s.accept i))

/-! ### The two primitives (43_register_protocol.md) -/

/-- `WRITE_REGISTER(m, r, P)`: the length check, then one write (R155). -/
def writeRegisterActs (m r : Byte) (p : List Byte) : List Act :=
  if p.length < Config.payloadLimit then [.tw m r p] else [.raise (.contractViolation .payloadTooLong)]

/-- `READ_REGISTER(m, r, n)`: the length check (R158), then the tier's sequence (R156, R157). -/
def readRegisterActs (c : Config) (m r : Byte) (n : Nat) (expect : Option Byte) : List Act :=
  if n ≤ Config.readLimit then
    match c.tier with
    | .full => [.tw m r [], .dly Config.tReadMs, .tr n expect]
    | .lite => [.twr m r n]
  else [.raise (.contractViolation .readTooLong)]

/-! ### The reset input (70_reset_and_hazards.md R240, R241) -/

/-- The reset input is taken: any operation in progress is abandoned without a result, `st` is Uninitialized, `addr`
and the buffers hold unspecified (free) values (log 2), nothing is sent. The channels and the build stay
(DESIGN CHOICE, log 15). A request or delay that is out and unanswered is abandoned with its operation and never enters the
trace (DESIGN CHOICE, log 21). The reset input is one event: taking it ends it, and the step after it takes the next packet
(DESIGN CHOICE, log 20). -/
def State.applyReset (s : State) : State :=
  { s with
    st := .uninitialized
    addr := Config.freeAddr s.epoch
    fb := Config.freeFrameBuf s.epoch
    rb := Config.freeReadBuf s.epoch
    current := none
    seq := 0
    result := none
    resetIn := false
    epoch := s.epoch + 1 }

end Sys2Proof.Machine
end

