-- ==== Sys2Proof/Machine/Codecs.lean ====
section
/-! DEFINITION. The pure operations issued on their own: the event byte classes, EVENT_DECODE, the key-index codec
and the color codec (40_color_codec.md, 41_key_index_codec.md, 42_event_codec.md). They have no event; their value
is their result. -/

namespace Sys2Proof.Machine

/-- The end of `EVENT_DECODE(e)`: a slot, or DecodeFault (42_event_codec.md R145). -/
def finishEvent (e : Byte) (s : State) : State := s.conclude ((eventDecode e).map Value.slot)

/-- The end of `KEY_TO_WIRE(i)`: the packed key id, or ContractViolation (41_key_index_codec.md R135, R139). -/
def finishKeyToWire (i : Byte) (s : State) : State := s.conclude ((keyToWire i).map Value.byte)

/-- The end of `KEY_FROM_WIRE(w)`: the key index; outside the image DecodeFault(MalformedKey), the error of its one
caller (41_key_index_codec.md R136, R140; log 8). -/
def finishKeyFromWire (w : Byte) (s : State) : State :=
  s.conclude
    (match keyFromWire w with
     | some i => .ok (.key i)
     | none => .error (.decodeFault .malformedKey))

/-- The end of `COLOR_TO_WIRE` (40_color_codec.md R130). -/
def finishColor (r g b : Byte) (s : State) : State := s.finish (.ok (.bytes (colorToWire r g b)))

/-! ### The meanings -/

/-- EV_EMPTY: the sentinel, no event (42_event_codec.md R147). -/
def execEvEmpty (s : State) : Host.Outcome State Fault Refusal :=
  .next (operate .evEmpty [] (finishEvent Config.fifoEmpty) s)

/-- EV_HIGH: `0rr0cc00` (42_event_codec.md R145, R146). -/
def execEvHigh (r c : BitVec 2) (s : State) : Host.Outcome State Fault Refusal :=
  .next (operate (.evHigh r c) [] (finishEvent (eventByte r c 0)) s)

/-- EV_LOW: `0rr0cc01`. -/
def execEvLow (r c : BitVec 2) (s : State) : Host.Outcome State Fault Refusal :=
  .next (operate (.evLow r c) [] (finishEvent (eventByte r c 1)) s)

/-- EV_FALLING: `0rr0cc10`. -/
def execEvFalling (r c : BitVec 2) (s : State) : Host.Outcome State Fault Refusal :=
  .next (operate (.evFalling r c) [] (finishEvent (eventByte r c 2)) s)

/-- EV_RISING: `0rr0cc11`. -/
def execEvRising (r c : BitVec 2) (s : State) : Host.Outcome State Fault Refusal :=
  .next (operate (.evRising r c) [] (finishEvent (eventByte r c 3)) s)

/-- EV_MALFORMED: DecodeFault(MalformedKey) (42_event_codec.md R148). -/
def execEvMalformed (x : Byte) (s : State) : Host.Outcome State Fault Refusal :=
  .next (operate (.evMalformed x) [] (finishEvent x) s)

/-- EVENT_DECODE (42_event_codec.md R145). -/
def execEventDecode (e : Byte) (s : State) : Host.Outcome State Fault Refusal :=
  .next (operate (.eventDecode e) [] (finishEvent e) s)

/-- KEY_TO_WIRE (41_key_index_codec.md R135). -/
def execKeyToWire (i : Byte) (s : State) : Host.Outcome State Fault Refusal :=
  .next (operate (.keyToWire i) [] (finishKeyToWire i) s)

/-- KEY_FROM_WIRE (41_key_index_codec.md R136). -/
def execKeyFromWire (w : Byte) (s : State) : Host.Outcome State Fault Refusal :=
  .next (operate (.keyFromWire w) [] (finishKeyFromWire w) s)

/-- COLOR_TO_WIRE (40_color_codec.md R130). -/
def execColorToWire (r g b : Byte) (s : State) : Host.Outcome State Fault Refusal :=
  .next (operate (.colorToWire r g b) [] (finishColor r g b) s)

end Sys2Proof.Machine
end

