-- ==== Sys2Proof/Machine/Protocol.lean ====
section
/-! DEFINITION. The register protocol layer issued on its own: the two primitives (43_register_protocol.md R155 to
R157) and the nine named frames of 30_encoding.md R92, each one call of a primitive. They check no lifecycle state,
as the pseudocode of the primitives checks none, and run on both tiers, the frames of the keypad, of SWRST and of HW_ID too,
which on Lite no command sends (44_bringup.md R176, 10_state.md R46; DEDUCED, log 10). -/

namespace Sys2Proof.Machine

/-- The identity byte and whether it is `HW_ID_CODE` (10_state.md R32; log 11). -/
def finishIdentity (s : State) : State := s.finish (.ok (.identity s.rb[0] (decide (s.rb[0] = s.cfg.hwIdCode))))

/-! ### The bodies -/

/-- The SWRST frame (10_state.md R31). -/
def swrstBody (c : Config) : List Act := writeRegisterActs Config.modStatus c.regStatusSwrst [Config.swrstCmd]

/-- The HW_ID read (10_state.md R32). -/
def hwIdBody (c : Config) : List Act := readRegisterActs c Config.modStatus c.regStatusHwId 1 none

/-- The LED.PIN frame (10_state.md R33). -/
def ledPinBody (c : Config) : List Act := writeRegisterActs Config.modLed c.regLedPin [Config.ledPin]

/-- The LED.BUF_LENGTH frame (10_state.md R34). -/
def ledBufLengthBody (c : Config) : List Act :=
  writeRegisterActs Config.modLed c.regLedBufLength (be16 Config.bufLen)

/-- The LED.BUF frame (10_state.md R35). -/
def ledBufBody (h l g r b : Byte) : List Act := writeRegisterActs Config.modLed Config.regLedBuf [h, l, g, r, b]

/-- The LED.SHOW frame (10_state.md R36). -/
def ledShowBody (c : Config) : List Act := writeRegisterActs Config.modLed c.regLedShow []

/-- The KEYPAD.EVENT frame for a packed key id held in a byte (10_state.md R37). -/
def keypadEventActs (c : Config) (w mask : Byte) : List Act :=
  writeRegisterActs Config.modKeypad c.regKeypadEvent [w, mask]

/-- The KEYPAD.EVENT frame for the fields of a packed key id (10_state.md R37, R40). -/
def keypadEventBody (c : Config) (r cl : BitVec 2) (mask : Byte) : List Act := keypadEventActs c (keyByte r cl) mask

/-- The KEYPAD.COUNT read (10_state.md R38). -/
def keypadCountRegBody (c : Config) : List Act := readRegisterActs c Config.modKeypad c.regKeypadCount 1 none

/-- The KEYPAD.FIFO read (10_state.md R39). -/
def keypadFifoBody (c : Config) (n : Nat) : List Act := readRegisterActs c Config.modKeypad c.regKeypadFifo n none

/-! ### The meanings -/

/-- `WRITE_REGISTER(m, r, P)` (43_register_protocol.md R155). -/
def execWriteRegister (m r : Byte) (p : List Byte) (s : State) : Host.Outcome State Fault Refusal :=
  .next (operate (.writeRegister m r p) (writeRegisterActs m r p) finishUnit s)

/-- `READ_REGISTER(m, r, n)` (43_register_protocol.md R156, R157, R158). -/
def execReadRegister (m r : Byte) (n : Nat) (s : State) : Host.Outcome State Fault Refusal :=
  .next (operate (.readRegister m r n) (readRegisterActs s.cfg m r n none) (finishRead n) s)

/-- SWRST (10_state.md R31). Issued on its own it is sent on a Lite build too, where no command resets the chip (R46;
DEDUCED, log 10). -/
def execSwrst (s : State) : Host.Outcome State Fault Refusal :=
  .next (operate .swrst (swrstBody s.cfg) finishUnit s)

/-- HW_ID (10_state.md R32); on its own on both tiers, as the example of 43_register_protocol.md R157 has it (log 10). -/
def execHwId (s : State) : Host.Outcome State Fault Refusal :=
  .next (operate .hwId (hwIdBody s.cfg) finishIdentity s)

/-- LED_PIN (10_state.md R33). -/
def execLedPin (s : State) : Host.Outcome State Fault Refusal :=
  .next (operate .ledPin (ledPinBody s.cfg) finishUnit s)

/-- LED_BUF_LENGTH (10_state.md R34). -/
def execLedBufLength (s : State) : Host.Outcome State Fault Refusal :=
  .next (operate .ledBufLength (ledBufLengthBody s.cfg) finishUnit s)

/-- LED_BUF (10_state.md R35); on its own at every offset, also one that is no `index * 3` or is above 45 (DESIGN CHOICE,
log 19). -/
def execLedBuf (h l g r b : Byte) (s : State) : Host.Outcome State Fault Refusal :=
  .next (operate (.ledBuf h l g r b) (ledBufBody h l g r b) finishUnit s)

/-- LED_SHOW (10_state.md R36). -/
def execLedShow (s : State) : Host.Outcome State Fault Refusal :=
  .next (operate .ledShow (ledShowBody s.cfg) finishUnit s)

/-- KEYPAD_EVENT (10_state.md R37); on its own with every mask byte (DESIGN CHOICE, log 19) and on both tiers (DEDUCED,
log 10). -/
def execKeypadEvent (r c : BitVec 2) (mask : Byte) (s : State) : Host.Outcome State Fault Refusal :=
  .next (operate (.keypadEvent r c mask) (keypadEventBody s.cfg r c mask) finishUnit s)

/-- KEYPAD_COUNT_REG (10_state.md R38); on its own on both tiers (DEDUCED, log 10). -/
def execKeypadCountReg (s : State) : Host.Outcome State Fault Refusal :=
  .next (operate .keypadCountReg (keypadCountRegBody s.cfg) finishByte s)

/-- KEYPAD_FIFO (10_state.md R39); on its own on both tiers (DEDUCED, log 10). -/
def execKeypadFifo (n : Nat) (s : State) : Host.Outcome State Fault Refusal :=
  .next (operate (.keypadFifo n) (keypadFifoBody s.cfg n) (finishRead n) s)

end Sys2Proof.Machine
end

