-- ==== Sys2Proof/Machine/Facade.lean ====
section
/-! DEFINITION. The facade: the five commands of the host (44_bringup.md, 45_ready_ops.md) and the reserved command
opcodes (30_encoding.md R109). A command is its checks, its body, and what follows the body. -/

namespace Sys2Proof.Machine

/-! ### Bring-up (44_bringup.md) -/

/-- Step 4 of bring-up, on both tiers: pin, then buffer length big-endian (44_bringup.md R175, R176). -/
def ledSetupActs (c : Config) : List Act := ledPinBody c ++ ledBufLengthBody c

/-- One arming write: `[KEY_TO_WIRE(i), mask]` to the keypad event register (44_bringup.md R175 step 5). -/
def armActs (c : Config) (i mask : Byte) : List Act :=
  match keyToWire i with
  | .ok w => keypadEventActs c w mask
  | .error k => [.raise k]

/-- The key indices in order. -/
def keyIndices : List Byte := (List.range Config.nKeys).map (fun i => BitVec.ofNat 8 i)

/-- Step 5 of bring-up: 64 arming writes, keys ascending, masks in the document's order (44_bringup.md R177, the
canonical order of decision D11; log 7). -/
def armAllActs (c : Config) : List Act :=
  keyIndices.flatMap (fun i => Config.eventMasks.flatMap (fun mask => armActs c i mask))

/-- The body of `NEW` (44_bringup.md R175 on Full, R176 on Lite). -/
def newBody (c : Config) : List Act :=
  match c.tier with
  | .full =>
    swrstBody c ++ [.dly Config.tResetMs] ++
      readRegisterActs c Config.modStatus c.regStatusHwId 1 (some c.hwIdCode) ++ ledSetupActs c ++ armAllActs c
  | .lite => ledSetupActs c

/-- `addr <- a` (44_bringup.md R175). -/
def newPrepare (a : DevAddr) (s : State) : State := { s with addr := a }

/-- `st <- Ready; return Ok` (44_bringup.md R175). -/
def newFinish (s : State) : State := { s.finish (.ok .unit) with st := .ready }

/-- `NEW(a)` (44_bringup.md R175, R176, R181). -/
def execNew (a : DevAddr) (s : State) : Host.Outcome State Fault Refusal :=
  .next (command (.new a) true .uninitialized none (newPrepare a) (newBody s.cfg) newFinish s)

/-! ### Ready-state operations (45_ready_ops.md) -/

/-- The LED index check (45_ready_ops.md R196). -/
def ledIndexCheck (index : Byte) : Option ContractReason :=
  if index.toNat < Config.nLeds then none else some .ledIndexRange

/-- The body of `SET_LED_COLOR` (45_ready_ops.md R190). -/
def setLedColorBody (index r g b : Byte) : List Act :=
  writeRegisterActs Config.modLed Config.regLedBuf (be16 (ledOffset index) ++ colorToWire r g b)

/-- `SET_LED_COLOR(index, (r, g, b))` (45_ready_ops.md R190). -/
def execSetLedColor (index r g b : Byte) (s : State) : Host.Outcome State Fault Refusal :=
  .next (command (.setLedColor index r g b) true .ready (ledIndexCheck index) id (setLedColorBody index r g b) finishUnit s)

/-- The body of `SHOW_LED`: the delay on Full only (45_ready_ops.md R191). -/
def showLedBody (c : Config) : List Act :=
  ledShowBody c ++
    match c.tier with
    | .full => [.dly Config.tShowMs]
    | .lite => []

/-- `SHOW_LED` (45_ready_ops.md R191). -/
def execShowLed (s : State) : Host.Outcome State Fault Refusal :=
  .next (command .showLed true .ready none id (showLedBody s.cfg) finishUnit s)

/-- Whether the keypad commands are offered: on Full only (45_ready_ops.md R194). -/
def keypadOffered (c : Config) : Bool := decide (c.tier = .full)

/-- The body of `READ_KEY_EVENTS(n)`: one read (45_ready_ops.md R192). The length check is the primitive's. -/
def readKeyEventsBody (c : Config) (n : Byte) : List Act :=
  keypadFifoBody c n.toNat

/-- The slots, decoded in order; the first malformed byte raises (45_ready_ops.md R192). -/
def readKeyEventsFinish (n : Byte) (s : State) : State :=
  s.conclude ((decodeSlots (s.received n.toNat)).map Value.slots)

/-- `READ_KEY_EVENTS(n)` (45_ready_ops.md R192). -/
def execReadKeyEvents (n : Byte) (s : State) : Host.Outcome State Fault Refusal :=
  .next (command (.readKeyEvents n) (keypadOffered s.cfg) .ready none id (readKeyEventsBody s.cfg n) (readKeyEventsFinish n) s)

/-- The body of `KEYPAD_COUNT` (45_ready_ops.md R193). -/
def keypadCountBody (c : Config) : List Act :=
  keypadCountRegBody c

/-- `KEYPAD_COUNT` (45_ready_ops.md R193). -/
def execKeypadCount (s : State) : Host.Outcome State Fault Refusal :=
  .next (command .keypadCount (keypadOffered s.cfg) .ready none id (keypadCountBody s.cfg) finishByte s)

/-! ### The reserved command opcodes -/

/-- A reserved command opcode: ContractViolation(BadCommand) (30_encoding.md R109, 60_exceptions.md R217); in Faulted
the first check of R213 decides (log 9). -/
def reservedCommand (s : State) : State :=
  match s.current with
  | some _ => s
  | none => s.raise (.contractViolation (if s.st = .faulted then .faulted else .badCommand))

/-- `CMD_RESERVED x` (30_encoding.md R109); neither the opcode nor what follows it is looked at further. -/
def execCmdReserved (_x : ReservedCommand) (s : State) : Host.Outcome State Fault Refusal := .next (reservedCommand s)

end Sys2Proof.Machine
end

