-- ==== Sys2Proof/Machine/Sequencer.lean ====
section
/-! DEFINITION. The sequencer (10_state.md R23): the body of every operation and what follows it, the running operation
taken up again at `seq`, and the same machine one event at a time (decision D24). -/

namespace Sys2Proof.Machine

/-- The body of an operation on a build: its trace is the trace of these acts (30_encoding.md R114). -/
def bodyOf (c : Config) : Instr → List Act
  | .new _ => newBody c
  | .setLedColor i r g b => setLedColorBody i r g b
  | .showLed => showLedBody c
  | .readKeyEvents n => readKeyEventsBody c n
  | .keypadCount => keypadCountBody c
  | .cmdReserved _ => [.raise (.contractViolation .badCommand)]
  | .writeRegister m r p => writeRegisterActs m r p
  | .readRegister m r n => readRegisterActs c m r n none
  | .swrst => swrstBody c
  | .hwId => hwIdBody c
  | .ledPin => ledPinBody c
  | .ledBufLength => ledBufLengthBody c
  | .ledBuf h l g r b => ledBufBody h l g r b
  | .ledShow => ledShowBody c
  | .keypadEvent r cl mask => keypadEventBody c r cl mask
  | .keypadCountReg => keypadCountRegBody c
  | .keypadFifo n => keypadFifoBody c n
  | .evEmpty => []
  | .evHigh _ _ => []
  | .evLow _ _ => []
  | .evFalling _ _ => []
  | .evRising _ _ => []
  | .evMalformed _ => []
  | .keyToWire _ => []
  | .keyFromWire _ => []
  | .colorToWire _ _ _ => []
  | .eventDecode _ => []

/-- What follows the last event of an operation. -/
def finishOf : Instr → State → State
  | .new _ => newFinish
  | .setLedColor _ _ _ _ => finishUnit
  | .showLed => finishUnit
  | .readKeyEvents n => readKeyEventsFinish n
  | .keypadCount => finishByte
  | .cmdReserved _ => finishUnit
  | .writeRegister _ _ _ => finishUnit
  | .readRegister _ _ n => finishRead n
  | .swrst => finishUnit
  | .hwId => finishIdentity
  | .ledPin => finishUnit
  | .ledBufLength => finishUnit
  | .ledBuf _ _ _ _ _ => finishUnit
  | .ledShow => finishUnit
  | .keypadEvent _ _ _ => finishUnit
  | .keypadCountReg => finishByte
  | .keypadFifo n => finishRead n
  | .evEmpty => finishEvent Config.fifoEmpty
  | .evHigh r c => finishEvent (eventByte r c 0)
  | .evLow r c => finishEvent (eventByte r c 1)
  | .evFalling r c => finishEvent (eventByte r c 2)
  | .evRising r c => finishEvent (eventByte r c 3)
  | .evMalformed x => finishEvent x
  | .keyToWire i => finishKeyToWire i
  | .keyFromWire w => finishKeyFromWire w
  | .colorToWire r g b => finishColor r g b
  | .eventDecode e => finishEvent e

/-- The running operation taken up again at the event `seq` names, and run as far as answers reach. -/
def resume (i : Instr) (s : State) : State := runActs (finishOf i) ((bodyOf s.cfg i).drop s.seq) s

/-- The request or delay that is out and not yet answered, if an operation is in progress (70_reset_and_hazards.md
R249). -/
def outstanding (s : State) : Option Act :=
  match s.current with
  | none => none
  | some i => (bodyOf s.cfg i)[s.seq]?

/-- The same machine at the finer grain of 10_state.md R23: one event of the running operation, or its end. With
nothing running, nothing happens. -/
def eventStep (s : State) : State :=
  match s.current with
  | none => s
  | some i =>
    match (bodyOf s.cfg i)[s.seq]? with
    | none => finishOf i s
    | some a =>
      match perform a s with
      | .done s' => s'
      | .raised k s' => s'.raise k
      | .waiting s' => s'

/-- What the block does when it is not being reset and no operation is in progress: it takes the oldest packet
offered (60_exceptions.md R232); with none offered it waits (70 R241). A packet that is no word of its port "cannot be
presented" (10_state.md R21, decision D20): it goes by and the block does not see it (DESIGN CHOICE, log 5). `run` is the
meaning of an instruction. -/
def takeNext (run : Instr → State → Host.Outcome State Fault Refusal) (s : State) : Host.Outcome State Fault Refusal :=
  match s.cmdIn with
  | [] => .next s
  | p :: rest =>
    match decode s.cfg p with
    | .ok i => run i { s with cmdIn := rest }
    | .error _ => .next { s with cmdIn := rest }

/-- One step: the reset input first (70 R240), then the operation in progress, then the next packet. -/
def stepWith (run : Instr → State → Host.Outcome State Fault Refusal) (s : State) : Host.Outcome State Fault Refusal :=
  if s.resetIn then .next s.applyReset
  else
    match s.current with
    | some i => .next (resume i s)
    | none => takeNext run s

/-- The state with a packet offered first and nothing else in its way: no reset asserted and no operation in
progress. -/
def State.offer (p : Packet) (s : State) : State :=
  { s with cmdIn := p :: s.cmdIn, resetIn := false, current := none, seq := 0 }

end Sys2Proof.Machine
end

