-- ==== Sys2Proof/Machine/Dispatch.lean ====
section
/-! DEFINITION. The dispatch: one arm per constructor of Instr, each one call of its meaning. -/

namespace Sys2Proof.Machine

def exec (i : Instr) (s : State) : Host.Outcome State Fault Refusal :=
  match i with
  | .new a => Sys2Proof.Machine.execNew a s
  | .setLedColor index r g b => Sys2Proof.Machine.execSetLedColor index r g b s
  | .showLed => Sys2Proof.Machine.execShowLed s
  | .readKeyEvents n => Sys2Proof.Machine.execReadKeyEvents n s
  | .keypadCount => Sys2Proof.Machine.execKeypadCount s
  | .cmdReserved x => Sys2Proof.Machine.execCmdReserved x s
  | .writeRegister m r p => Sys2Proof.Machine.execWriteRegister m r p s
  | .readRegister m r n => Sys2Proof.Machine.execReadRegister m r n s
  | .swrst => Sys2Proof.Machine.execSwrst s
  | .hwId => Sys2Proof.Machine.execHwId s
  | .ledPin => Sys2Proof.Machine.execLedPin s
  | .ledBufLength => Sys2Proof.Machine.execLedBufLength s
  | .ledBuf h l g r b => Sys2Proof.Machine.execLedBuf h l g r b s
  | .ledShow => Sys2Proof.Machine.execLedShow s
  | .keypadEvent r c mask => Sys2Proof.Machine.execKeypadEvent r c mask s
  | .keypadCountReg => Sys2Proof.Machine.execKeypadCountReg s
  | .keypadFifo n => Sys2Proof.Machine.execKeypadFifo n s
  | .evEmpty => Sys2Proof.Machine.execEvEmpty s
  | .evHigh r c => Sys2Proof.Machine.execEvHigh r c s
  | .evLow r c => Sys2Proof.Machine.execEvLow r c s
  | .evFalling r c => Sys2Proof.Machine.execEvFalling r c s
  | .evRising r c => Sys2Proof.Machine.execEvRising r c s
  | .evMalformed x => Sys2Proof.Machine.execEvMalformed x s
  | .keyToWire k => Sys2Proof.Machine.execKeyToWire k s
  | .keyFromWire w => Sys2Proof.Machine.execKeyFromWire w s
  | .colorToWire r g b => Sys2Proof.Machine.execColorToWire r g b s
  | .eventDecode e => Sys2Proof.Machine.execEventDecode e s

end Sys2Proof.Machine
end

