-- ==== Sys2Proof/Machine/Step.lean ====
section
/-! DEFINITION. One step of the machine, and where an instruction is presented to it. -/

namespace Sys2Proof.Machine

/-- One step (Machine/Sequencer.lean, `stepWith`), with `exec` as the meaning of an instruction. A step runs a whole
command, or as much of it as the oracle answers (10_state.md R23, decision D24). -/
def step (s : State) : Host.Outcome State Fault Refusal := stepWith exec s

/-- `s` with the word of the opcode table offered first on its port, so that the next step runs it (log 5, log 13). -/
def State.withFetchWord (s : State) (nbits w : Nat) : State := s.offer (tablePacket s.cfg nbits w)

end Sys2Proof.Machine
end

