-- ==== Sys2Proof/Machine/RefChip.lean ====
section
/-! DEFINITION. The informative reference chip of 20_memory.md R67: a fixture that answers the bus requests, "not a
claim about any chip" and no part of the block's state. With it a command can be run against a chip (log 12). -/

namespace Sys2Proof.Machine

/-- What the reference chip holds (20_memory.md R67): the 48-byte pixel buffer, the latched strip, the pending event
bytes, oldest first; and the register a write last addressed, which a separate read transaction then reads. -/
structure RefChip where
  pix : Vector Byte 48
  strip : Vector Byte 48
  fifo : List Byte
  selected : Byte × Byte
deriving DecidableEq, Repr

/-- `ys` with `xs` written over it from position `off` on. -/
def overlayAt (off : Nat) (xs ys : List Byte) : List Byte := ys.take off ++ overlayList xs (ys.drop off)

theorem overlayAt_length (off : Nat) (xs ys : List Byte) : (overlayAt off xs ys).length = ys.length := by
  simp [overlayAt, overlayList_length]; omega

/-- A write to LED.BUF: `pix[off + k] <- D[k]`, when it fits the 48 bytes (R67). -/
def RefChip.paint (off : Nat) (d : List Byte) (ch : RefChip) : RefChip :=
  if off + d.length ≤ 48 then
    { ch with pix := ⟨(overlayAt off d ch.pix.toList).toArray, by simp [overlayAt_length]⟩ }
  else ch

/-- What a write of the frame `[m, r] ++ p` does to the chip (R67): SWRST, which is the payload `FF` (10_state.md R31),
zeroes the pixel buffer. R67 leaves the rest open and the fixture chooses (log 12): SWRST keeps the strip and the pending
events; another payload to that register, the bare address write of a Full-tier read among them, leaves the chip as it is;
a write to LED.SHOW latches whatever its payload; a
write to LED.BUF of fewer than two bytes does nothing. -/
def RefChip.write (c : Config) (m r : Byte) (p : List Byte) (ch : RefChip) : RefChip :=
  let ch := { ch with selected := (m, r) }
  if (m, r) = (Config.modStatus, c.regStatusSwrst) then
    if p = [Config.swrstCmd] then { ch with pix := Vector.replicate 48 0 } else ch
  else if (m, r) = (Config.modLed, Config.regLedBuf) then
    match p with
    | hi :: lo :: d => ch.paint (hi.toNat * 256 + lo.toNat) d
    | _ => ch
  else if (m, r) = (Config.modLed, c.regLedShow) then { ch with strip := ch.pix }
  else ch

/-- The first `n` pending bytes, padded with 0xFF (R67). -/
def fifoBytes (n : Nat) (fifo : List Byte) : List Byte :=
  fifo.take n ++ List.replicate (n - fifo.length) Config.fifoEmpty

/-- What a read of `n` bytes from the register `(m, r)` delivers, and the chip after it (R67; removal on read is
general knowledge, GK7). R67 gives the identity and the count register one byte; a read of another length repeats it, a
count above 255 is taken modulo 256, and a register R67 says nothing of delivers 0xFF (the fixture's choices, log 12). -/
def RefChip.read (c : Config) (m r : Byte) (n : Nat) (ch : RefChip) : List Byte × RefChip :=
  if (m, r) = (Config.modStatus, c.regStatusHwId) then (List.replicate n c.hwIdCode, ch)
  else if (m, r) = (Config.modKeypad, c.regKeypadCount) then (List.replicate n (BitVec.ofNat 8 ch.fifo.length), ch)
  else if (m, r) = (Config.modKeypad, c.regKeypadFifo) then (fifoBytes n ch.fifo, { ch with fifo := ch.fifo.drop n })
  else (List.replicate n Config.fifoEmpty, ch)

/-- The answer that delivers these bytes. -/
def BusAnswer.ofBytes (bs : List Byte) : BusAnswer := .ok (overlay bs (Vector.replicate 32 0))

/-- The chip's answers to the requests of a body, in order, and the chip after them: "every request answers Ok" (R67). The
address half of a write-then-read is no write to its register (the fixture's choice, log 12): it neither latches nor
selects. -/
def RefChip.serve (c : Config) : List Act → RefChip → List BusAnswer × RefChip
  | [], ch => ([], ch)
  | .tw m r p :: rest, ch =>
    let (as, ch') := RefChip.serve c rest (ch.write c m r p)
    (.ofBytes [] :: as, ch')
  | .tr n _ :: rest, ch =>
    let (bs, ch1) := ch.read c ch.selected.1 ch.selected.2 n
    let (as, ch') := RefChip.serve c rest ch1
    (.ofBytes bs :: as, ch')
  | .twr m r n :: rest, ch =>
    let (bs, ch1) := ch.read c m r n
    let (as, ch') := RefChip.serve c rest ch1
    (.ofBytes bs :: as, ch')
  | .dly _ :: rest, ch => RefChip.serve c rest ch
  | .raise _ :: _, ch => ([], ch)

/-- The block with the reference chip's answers to one operation, and a delay primitive that completes its delays. -/
def State.against (ch : RefChip) (i : Instr) (s : State) : State :=
  { s with
    busIn := (RefChip.serve s.cfg (bodyOf s.cfg i) ch).1
    delayIn := (bodyOf s.cfg i).length }

/-- The reference chip after one operation that ran to its end. -/
def RefChip.after (c : Config) (i : Instr) (ch : RefChip) : RefChip := (RefChip.serve c (bodyOf c i) ch).2

end Sys2Proof.Machine
end

