-- ==== Sys2Proof/Safety.lean ====
section
/-! DEFINITION. The vocabulary of the claims: what a run must not reach, what a step may do to the lifecycle state,
what a trace must look like, and what the block promises in Ready. -/

namespace Sys2Proof

/-- The instruction is one of the five commands the host can issue, or a reserved opcode (30_encoding.md R96). -/
def Instr.isCommand : Instr → Bool
  | .new _ | .setLedColor _ _ _ _ | .showLed | .readKeyEvents _ | .keypadCount | .cmdReserved _ => true
  | .writeRegister _ _ _ | .readRegister _ _ _ | .swrst | .hwId | .ledPin | .ledBufLength | .ledBuf _ _ _ _ _
  | .ledShow | .keypadEvent _ _ _ | .keypadCountReg | .keypadFifo _ | .evEmpty | .evHigh _ _ | .evLow _ _
  | .evFalling _ _ | .evRising _ _ | .evMalformed _ | .keyToWire _ | .keyFromWire _ | .colorToWire _ _ _
  | .eventDecode _ => false

/-- The instruction is a pure codec operation: no event, no state but the result (40, 41, 42). -/
def Instr.isCodec : Instr → Bool
  | .evEmpty | .evHigh _ _ | .evLow _ _ | .evFalling _ _ | .evRising _ _ | .evMalformed _ | .keyToWire _
  | .keyFromWire _ | .colorToWire _ _ _ | .eventDecode _ => true
  | .new _ | .setLedColor _ _ _ _ | .showLed | .readKeyEvents _ | .keypadCount | .cmdReserved _
  | .writeRegister _ _ _ | .readRegister _ _ _ | .swrst | .hwId | .ledPin | .ledBufLength | .ledBuf _ _ _ _ _
  | .ledShow | .keypadEvent _ _ _ | .keypadCountReg | .keypadFifo _ => false

end Sys2Proof

namespace Sys2Proof.Machine

/-- No operation is in progress, so that the next one is taken (60_exceptions.md R232). -/
def Idle (s : State) : Prop := s.current = none

/-- Whether an event is that of an act answered `Ok`, whatever a read delivered (an identity read: the expected
byte). -/
def Event.isOkOf (a : DevAddr) : Act → Event → Bool
  | .tw m r p, .tw a' x .ok => decide (a' = a ∧ x = m :: r :: p)
  | .tr n none, .tr a' n' (.ok bs) => decide (a' = a ∧ n' = n ∧ bs.length = n)
  | .tr n (some id), .tr a' n' (.ok bs) => decide (a' = a ∧ n' = n ∧ bs = [id])
  | .twr m r n, .twr a' x n' (.ok bs) => decide (a' = a ∧ x = [m, r] ∧ n' = n ∧ bs.length = n)
  | .dly ms, .dly ms' => decide (ms' = ms)
  | _, _ => false

/-- The events are those of the acts, one each, all answered `Ok`. -/
def OkTrace (a : DevAddr) (acts : List Act) (es : List Event) : Prop :=
  List.Forall₂ (fun act e => Event.isOkOf a act e = true) acts es

/-- The event is the failing one of an act, and the error it raises (60_exceptions.md R211, R212, R215). -/
def Event.FailsAs (a : DevAddr) (e : Event) (k : ErrKind) : Act → Prop
  | .tw m r p => ∃ er, e = .tw a (m :: r :: p) (.err er) ∧ k = .writeFault er
  | .tr n x =>
    (∃ er, e = .tr a n (.err er) ∧ k = .readFault er) ∨
      ∃ id bs, x = some id ∧ bs.length = n ∧ bs ≠ [id] ∧ e = .tr a n (.ok bs) ∧ k = .wrongIdentity
  | .twr m r n => ∃ er, e = .twr a [m, r] n (.err er) ∧ k = .readFault er
  | .dly _ => False
  | .raise _ => False

/-! ### Tables written from the rules, for the claims to compare the machine with -/

/-- The sixteen packed key ids in the order of the key indices (41_key_index_codec.md R137). -/
def packedKeys : List Byte :=
  [0x00, 0x01, 0x02, 0x03, 0x08, 0x09, 0x0A, 0x0B, 0x10, 0x11, 0x12, 0x13, 0x18, 0x19, 0x1A, 0x1B]

/-- The 64 arming frames `10 EVENT pp mm` of bring-up (44_bringup.md R178). -/
def armingFrames (c : Config) : List (List Byte) :=
  packedKeys.flatMap (fun pp => [[0x10, c.regKeypadEvent, pp, 0x02], [0x10, c.regKeypadEvent, pp, 0x04],
    [0x10, c.regKeypadEvent, pp, 0x09], [0x10, c.regKeypadEvent, pp, 0x11]])

/-- The frames the block sends at all (30_encoding.md R92, R110): the fixed ones, the 64 arming frames, and the pixel
writes at the offsets 0, 3, ..., 45 (20_memory.md R53). -/
def IsEmitted (c : Config) (x : List Byte) : Prop :=
  x ∈ [[0x00, c.regStatusSwrst, 0xFF], [0x00, c.regStatusHwId], [0x0E, c.regLedPin, 0x03],
    [0x0E, c.regLedBufLength, 0x00, 0x30], [0x0E, c.regLedShow], [0x10, c.regKeypadCount], [0x10, c.regKeypadFifo]] ∨
  x ∈ armingFrames c ∨
  ∃ (k : Nat) (g r b : Byte), k < 16 ∧ x = [0x0E, 0x04, 0x00, BitVec.ofNat 8 (3 * k), g, r, b]

/-- The events of bring-up up to the identity read, which delivered the byte `id` (44_bringup.md R178, events 1 to 5). -/
def identityTrace (c : Config) (a : DevAddr) (id : Byte) : List Event :=
  [.tw a [0x00, c.regStatusSwrst, 0xFF] .ok, .dly 500, .tw a [0x00, c.regStatusHwId] .ok, .dly 6, .tr a 1 (.ok [id])]

/-- The two LED configuration writes (44_bringup.md R176, R178 events 6 and 7). -/
def ledSetupTrace (c : Config) (a : DevAddr) : List Event :=
  [.tw a [0x0E, c.regLedPin, 0x03] .ok, .tw a [0x0E, c.regLedBufLength, 0x00, 0x30] .ok]

/-- The whole trace of a successful Full-tier bring-up (44_bringup.md R178). -/
def bringUpTrace (c : Config) (a : DevAddr) : List Event :=
  identityTrace c a c.hwIdCode ++ ledSetupTrace c a ++ (armingFrames c).map (fun x => .tw a x .ok)

/-- The whole trace of a successful bring-up on the build's tier (44_bringup.md R176, R178). -/
def newTrace (c : Config) (a : DevAddr) : List Event :=
  match c.tier with
  | .full => bringUpTrace c a
  | .lite => ledSetupTrace c a

/-- Whether an event is a delay; every other is a bus request. -/
def Event.isDelay : Event → Bool
  | .dly _ => true
  | .tw _ _ _ | .tr _ _ _ | .twr _ _ _ _ => false

/-- The frame an instruction writes as its only or first write, where it is one of the write frames of
30_encoding.md R92 or a payload the primitive takes; the address write of a read is not one, and NEW, whose writes are those
of `newTrace`, is left to statements of its own. -/
def writeFrameOf (c : Config) : Instr → Option (List Byte)
  | .setLedColor index r g b =>
    some [0x0E, 0x04, BitVec.ofNat 8 (index.toNat * 3 / 256), BitVec.ofNat 8 (index.toNat * 3 % 256), g, r, b]
  | .showLed => some [0x0E, c.regLedShow]
  | .writeRegister m r p => if p.length < 32 then some (m :: r :: p) else none
  | .swrst => some [0x00, c.regStatusSwrst, 0xFF]
  | .ledPin => some [0x0E, c.regLedPin, 0x03]
  | .ledBufLength => some [0x0E, c.regLedBufLength, 0x00, 0x30]
  | .ledBuf h l g r b => some [0x0E, 0x04, h, l, g, r, b]
  | .ledShow => some [0x0E, c.regLedShow]
  | .keypadEvent r cl mask => some [0x10, c.regKeypadEvent, keyByte r cl, mask]
  | .new _ | .readKeyEvents _ | .keypadCount | .cmdReserved _ | .readRegister _ _ _ | .hwId | .keypadCountReg
  | .keypadFifo _ | .evEmpty | .evHigh _ _ | .evLow _ _ | .evFalling _ _ | .evRising _ _ | .evMalformed _
  | .keyToWire _ | .keyFromWire _ | .colorToWire _ _ _ | .eventDecode _ => none

/-- The register and the length of the one read sequence an instruction performs (30_encoding.md R92, format RF); NEW, whose
identity read stands among its writes, is left to statements of its own. -/
def readOf (c : Config) : Instr → Option (Byte × Byte × Nat)
  | .readKeyEvents n => some (0x10, c.regKeypadFifo, n.toNat)
  | .keypadCount => some (0x10, c.regKeypadCount, 1)
  | .readRegister m r n => some (m, r, n)
  | .hwId => some (0x00, c.regStatusHwId, 1)
  | .keypadCountReg => some (0x10, c.regKeypadCount, 1)
  | .keypadFifo n => some (0x10, c.regKeypadFifo, n)
  | .new _ | .setLedColor _ _ _ _ | .showLed | .cmdReserved _ | .writeRegister _ _ _ | .swrst | .ledPin
  | .ledBufLength | .ledBuf _ _ _ _ _ | .ledShow | .keypadEvent _ _ _ | .evEmpty | .evHigh _ _ | .evLow _ _
  | .evFalling _ _ | .evRising _ _ | .evMalformed _ | .keyToWire _ | .keyFromWire _ | .colorToWire _ _ _
  | .eventDecode _ => none

/-- The row of NEW in the matrix of 60_exceptions.md R225. -/
def newRefusal : Lifecycle → Option ContractReason
  | .uninitialized => none
  | .ready => some .badState
  | .faulted => some .faulted

/-- The rows of SET_LED_COLOR and SHOW_LED there. -/
def ledRefusal : Lifecycle → Option ContractReason
  | .uninitialized => some .badState
  | .ready => none
  | .faulted => some .faulted

/-- The rows of READ_KEY_EVENTS and KEYPAD_COUNT there, Full and Lite. -/
def keypadRefusal : Tier → Lifecycle → Option ContractReason
  | .full, .uninitialized => some .badState
  | .full, .ready => none
  | .full, .faulted => some .faulted
  | .lite, .uninitialized => some .unsupported
  | .lite, .ready => some .unsupported
  | .lite, .faulted => some .faulted

/-- The matrix of 60_exceptions.md R225: the reason a command is refused for in a state and a tier; none where it
runs its body, and for what is no command of the matrix. -/
def refusalReason (tier : Tier) (st : Lifecycle) (i : Instr) : Option ContractReason :=
  match i with
  | .new _ => newRefusal st
  | .setLedColor _ _ _ _ => ledRefusal st
  | .showLed => ledRefusal st
  | .readKeyEvents _ => keypadRefusal tier st
  | .keypadCount => keypadRefusal tier st
  | .cmdReserved _ | .writeRegister _ _ _ | .readRegister _ _ _ | .swrst | .hwId | .ledPin | .ledBufLength
  | .ledBuf _ _ _ _ _ | .ledShow | .keypadEvent _ _ _ | .keypadCountReg | .keypadFifo _ | .evEmpty | .evHigh _ _
  | .evLow _ _ | .evFalling _ _ | .evRising _ _ | .evMalformed _ | .keyToWire _ | .keyFromWire _ | .colorToWire _ _ _
  | .eventDecode _ => none

/-- Whether a byte is the sentinel or a well-formed event byte: not malformed in the words of 42_event_codec.md R148. -/
def wellFormedEvent (b : Byte) : Bool := decide (b = 0xFF) || decide (b &&& 0x90 = 0)

/-- The slot a byte that is not malformed stands for, by the fields of format EV, `0rr0cckk` with key index `rrcc`
(30_encoding.md R93) and the kinds of 10_state.md R42. -/
def slotOf (b : Byte) : Option KeypadEvent :=
  if b = 0xFF then none
  else
    some
      { key := b.extractLsb' 5 2 ++ b.extractLsb' 2 2
        kind :=
          if b.extractLsb' 0 2 = 0 then .high
          else if b.extractLsb' 0 2 = 1 then .low
          else if b.extractLsb' 0 2 = 2 then .falling
          else .rising }

/-- When a command's checks let it run (60_exceptions.md R213, R225); everything that is no command runs. -/
def Allowed (i : Instr) (s : State) : Prop :=
  match i with
  | .new _ => s.st = .uninitialized
  | .setLedColor index _ _ _ => s.st = .ready ∧ index.toNat < 16
  | .showLed => s.st = .ready
  | .readKeyEvents _ => s.st = .ready ∧ s.cfg.tier = .full
  | .keypadCount => s.st = .ready ∧ s.cfg.tier = .full
  | .cmdReserved _ => False
  | .writeRegister _ _ _ | .readRegister _ _ _ | .swrst | .hwId | .ledPin | .ledBufLength
  | .ledBuf _ _ _ _ _ | .ledShow | .keypadEvent _ _ _ | .keypadCountReg | .keypadFifo _ | .evEmpty | .evHigh _ _
  | .evLow _ _ | .evFalling _ _ | .evRising _ _ | .evMalformed _ | .keyToWire _ | .keyFromWire _ | .colorToWire _ _ _
  | .eventDecode _ => True

/-- The state an instruction's body starts in: the instruction in progress at its first event, and `addr` written by NEW
(10_state.md R23, 44_bringup.md R175). -/
def startState (i : Instr) (s : State) : State :=
  match i with
  | .new a => newPrepare a (s.accept i)
  | _ => s.accept i

/-! ### The end states of one write and one read, for the claims to name -/

/-- The operation ended with a refusal by its checks: nothing sent, Faulted (60_exceptions.md R216). -/
def refusedWith (why : ContractReason) (s : State) : State :=
  { s with st := .faulted, seq := 0, result := some (.err (.contractViolation why)) }

/-- The operation ended with a value and no event. -/
def endedWith (v : Value) (s : State) : State := { s with seq := 0, result := some (.ok v) }

/-- The frame `x` was written, answered `Ok`, and the operation ended with nothing to return. -/
def afterWrite (x : List Byte) (rest : List BusAnswer) (s : State) : State :=
  { s with
    seq := 0
    fb := overlay x s.fb
    busIn := rest
    trace := s.trace ++ [.tw s.addr x .ok]
    result := some (.ok .unit) }

/-- The frame `x` was written and answered `Err(e)`: WriteFault, `st` unchanged, nothing more sent. -/
def afterWriteFault (x : List Byte) (e : TransportError) (rest : List BusAnswer) (s : State) : State :=
  { s with
    seq := 0
    fb := overlay x s.fb
    busIn := rest
    trace := s.trace ++ [.tw s.addr x (.err e)]
    result := some (.err (.writeFault e)) }

/-- The three events of a Full-tier read sequence answered `Ok`, and the bytes in RB; the operation ended with `res`. -/
def afterReadFull (m r : Byte) (n : Nat) (bs : List Byte) (rest : List BusAnswer) (delays : Nat) (res : Result)
    (s : State) : State :=
  { s with
    seq := 0
    fb := overlay [m, r] s.fb
    rb := overlay bs s.rb
    busIn := rest
    delayIn := delays
    trace := s.trace ++ [.tw s.addr [m, r] .ok, .dly 6, .tr s.addr n (.ok bs)]
    result := some res }

/-- The one event of a Lite-tier read answered `Ok`, and the bytes in RB; the operation ended with `res`. -/
def afterReadLite (m r : Byte) (n : Nat) (bs : List Byte) (rest : List BusAnswer) (res : Result) (s : State) : State :=
  { s with
    seq := 0
    fb := overlay [m, r] s.fb
    rb := overlay bs s.rb
    busIn := rest
    trace := s.trace ++ [.twr s.addr [m, r] n (.ok bs)]
    result := some res }

/-! ### Invariants -/

/-- The events of the running operation so far are the last of the trace, one for each act before `seq`, all answered
`Ok` (10_state.md R23, 60_exceptions.md R214). -/
def InFlight (s : State) : Prop :=
  ∀ i, s.current = some i → ∃ before es, s.trace = before ++ es ∧ OkTrace s.addr ((bodyOf s.cfg i).take s.seq) es

/-- An operation in progress stands at a request of its body and is one its checks allow; with none, `seq` is 0
(10_state.md R23, R45; 60_exceptions.md R213, R225). NEW in progress means `addr` is its operand (44_bringup.md R175). -/
structure RunInv (s : State) : Prop where
  idle : s.current = none → s.seq = 0
  atRequest : ∀ i, s.current = some i → ∃ a, (bodyOf s.cfg i)[s.seq]? = some a ∧ ∀ k, a ≠ .raise k
  allowed : ∀ i, s.current = some i → Allowed i s
  address : ∀ a, s.current = some (.new a) → s.addr = a

/-- Every separate read transaction in the trace comes right after a 6 ms delay, which comes right after the address
write that went well (20_memory.md R72, 70_reset_and_hazards.md R245). -/
def SettledReads (tr : List Event) : Prop :=
  ∀ k a n ans, tr[k]? = some (.tr a n ans) →
    ∃ j m r, k = j + 2 ∧ tr[j + 1]? = some (.dly 6) ∧ tr[j]? = some (.tw a [m, r] .ok)

/-- `SettledReads`, with what makes it inductive. -/
structure SettleInv (s : State) : Prop where
  inFlight : InFlight s
  settled : SettledReads s.trace

/-- What Ready promises (70_reset_and_hazards.md R243): the events of a whole bring-up to `addr`, all answered `Ok`,
stand in the trace. -/
structure ReadyInv (s : State) : Prop where
  inFlight : InFlight s
  promise : s.st = .ready → ∃ before es after, s.trace = before ++ es ++ after ∧ OkTrace s.addr (newBody s.cfg) es

end Sys2Proof.Machine
end

