-- ==== Sys2Proof/Certificates/Slice0/Obligations.lean ====
section
/-! DEFINITION. The statements for the provers. Each docstring names the rule of spec/ it formalises; a statement that
rests on a choice of the model says so. -/

open Sys2Proof Sys2Proof.Machine

/-! ## Reset, step, channels -/

/-- 10_state.md R45, 70_reset_and_hazards.md R241 (the spec's decision D18): after reset the block is Uninitialized,
with no command in progress, no result, nothing sent, and it waits for a command. -/
def Obligations.ResetIsUninitializedAndWaits : Prop :=
  State.reset.st = .uninitialized ∧ State.reset.seq = 0 ∧ State.reset.current = none ∧ State.reset.result = none ∧
    State.reset.trace = [] ∧ step State.reset = .next State.reset

/-- 70_reset_and_hazards.md R240, R241, 10_state.md R45 (the spec's decision D18): the reset input, at any time,
abandons what runs, gives no result for it, sends nothing and leaves the build as it is. What `addr` and the buffers
then hold is not stated. The model's choices: taking the reset input ends it (DESIGN CHOICE, log 20), the channels and
the trace keep what they hold (DESIGN CHOICE, log 15), and a request that is out and unanswered never enters the trace
(DESIGN CHOICE, log 21). -/
def Obligations.ResetInputAbandonsTheOperation : Prop :=
  ∀ s : State, s.resetIn = true →
    ∃ t, step s = .next t ∧ t.st = .uninitialized ∧ t.current = none ∧ t.seq = 0 ∧ t.result = none ∧
      t.resetIn = false ∧ t.trace = s.trace ∧ t.busIn = s.busIn ∧ t.delayIn = s.delayIn ∧ t.cmdIn = s.cmdIn ∧
      t.cfg = s.cfg

/-- A step runs the decoded instruction: with no reset asserted and nothing in progress, the oldest packet offered is
taken and the instruction it decodes to is run on the state without that packet (00_scope.md R16, 60_exceptions.md
R232). -/
def Obligations.StepRunsTheDecodedInstruction : Prop :=
  ∀ (s : State) (p : Packet) (rest : List Packet) (i : Instr),
    s.resetIn = false → Idle s → s.cmdIn = p :: rest → decode s.cfg p = .ok i →
      step s = exec i { s with cmdIn := rest }

/-- The fetch word: a word of the opcode table placed with `withFetchWord` is what the very next step runs, on the
state with nothing in progress (log 5, log 13: the model's own placing). -/
def Obligations.FetchWordRunsNext : Prop :=
  ∀ (s : State) (nbits w : Nat) (i : Instr), decode s.cfg (tablePacket s.cfg nbits w) = .ok i →
    step (s.withFetchWord nbits w) = exec i { s with resetIn := false, current := none, seq := 0 }

/-- A packet that is no word of its port is not presented to the block: it goes by, and nothing else changes (the
model's choice, DESIGN CHOICE, log 5); in particular a NEW with an address byte above 0x7F (10_state.md R21, decision
D20: "a value above 0x7F cannot be presented"). -/
def Obligations.UnpresentablePacketGoesBy : Prop :=
  (∀ (s : State) (p : Packet) (rest : List Packet) (why : Reject),
    s.resetIn = false → Idle s → s.cmdIn = p :: rest → decode s.cfg p = .error why →
      step s = .next { s with cmdIn := rest }) ∧
  ∀ (c : Config) (b : Byte), 0x7F < b.toNat → decode c ⟨.command, [0x00, b], 0⟩ = .error .addressTooWide

/-- 60_exceptions.md R220: every error of the spec is a result, and nothing stops the machine: every instruction gives
a next state from every state, and so does every step, whatever is offered (DEDUCED, log 16; DESIGN CHOICE, log 5 for
what is no word). -/
def Obligations.NothingStopsTheMachine : Prop :=
  (∀ (i : Instr) (s : State), ∃ t, exec i s = .next t) ∧ ∀ s : State, ∃ t, step s = .next t

/-- 60_exceptions.md R232 (the spec's decision D23): an instruction offered while another is in progress is not taken.
-/
def Obligations.BusyBlockTakesNoInstruction : Prop :=
  ∀ (i j : Instr) (s : State), s.current = some j → exec i s = .next s

/-- 70_reset_and_hazards.md R249, 43_register_protocol.md R160: a request or delay that is never answered holds the
block for ever: the step changes at most the frame buffer, and the step after it changes nothing; nothing is retried
and no packet is taken. -/
def Obligations.UnansweredRequestHoldsTheBlock : Prop :=
  ∀ (s : State) (i : Instr) (a : Act), s.resetIn = false → s.current = some i → outstanding s = some a →
    ((∃ ms, a = .dly ms) ∧ s.delayIn = 0 ∨
      (∀ ms, a ≠ .dly ms) ∧ (∀ k, a ≠ .raise k) ∧ s.busIn = []) →
      ∃ t, step s = .next t ∧ t = { s with fb := t.fb } ∧ step t = .next t

/-- 10_state.md R26, 20_memory.md R70, 60_exceptions.md R232: a step never changes the build, only adds to the end of
the trace, only takes answers, delays and packets from the front of their queues, and takes a packet only when nothing
is in progress. For the step that takes the reset input it is the model's choice that the trace and the queues stay as
they are (DESIGN CHOICE, log 15). -/
def Obligations.StepOnlyTakesInputsInOrder : Prop :=
  ∀ s t : State, step s = .next t →
    t.cfg = s.cfg ∧ s.trace <+: t.trace ∧ t.busIn <:+ s.busIn ∧ t.delayIn ≤ s.delayIn ∧
      (t.cmdIn = s.cmdIn ∨ Idle s ∧ s.resetIn = false ∧ ∃ p, s.cmdIn = p :: t.cmdIn)

/-- 10_state.md R23 (the spec's decision D24): the model's step per command and the model of one event per step agree:
an instruction its checks allow, from its start, and a running operation taken up again, are what as many single
events as the body has, and its end, come to. -/
def Obligations.EventGrainAgreesWithCommandGrain : Prop :=
  (∀ (i : Instr) (s : State), Idle s → Allowed i s →
    exec i s = .next (Nat.iterate eventStep ((bodyOf s.cfg i).length + 1) (startState i s))) ∧
  ∀ (s : State) (i : Instr), s.current = some i →
    resume i s = Nat.iterate eventStep ((bodyOf s.cfg i).length + 1) s

/-! ## Encodings -/

/-- Words written out from 30_encoding.md R92 to R96 and the defaults of 00_scope.md R7 decode to what they stand for
(a sanity statement). -/
def Obligations.WordsOfTheSpecDecode : Prop :=
  decode Config.default ⟨.command, [0x00, 0x2E], 0⟩ = .ok (.new 0x2E) ∧
  decode Config.default ⟨.command, [0x01, 0x05, 0x01, 0x02, 0x03], 0⟩ = .ok (.setLedColor 5 1 2 3) ∧
  decode Config.default ⟨.command, [0x03, 0x04], 0⟩ = .ok (.readKeyEvents 4) ∧
  decode Config.default ⟨.writeFrame, [0x0E, 0x04, 0x00, 0x0F, 0x02, 0x01, 0x03], 0⟩ =
    .ok (.ledBuf 0x00 0x0F 0x02 0x01 0x03) ∧
  decode Config.default ⟨.writeFrame, [0x10, 0x01, 0x13, 0x09], 0⟩ = .ok (.keypadEvent 2 3 0x09) ∧
  decode Config.default ⟨.readFrame, [0x10, 0x10], 32⟩ = .ok (.keypadFifo 32) ∧
  decode Config.default ⟨.eventByte, [0x6E], 0⟩ = .ok (.evFalling 3 3) ∧
  decode Config.default ⟨.keyFromWire, [0x13], 0⟩ = .ok (.keyFromWire 0x13)

/-- 30_encoding.md R90 to R96, R105: for every well-formed instruction, with every operand at every value its row
admits, on every build whose registers are pairwise different, the decoder gives back what the encoder wrote. -/
def Obligations.DecodeOfEncodeIsTheInstruction : Prop :=
  ∀ (c : Config) (i : Instr), c.distinct = true → i.wellFormed = true → decode c (encode c i) = .ok i

/-- The other direction: a packet that decodes is the word of its instruction, so no two packets give one instruction
and no bit is dropped (30_encoding.md R90 to R96). -/
def Obligations.EncodeOfDecodeIsThePacket : Prop :=
  ∀ (c : Config) (p : Packet) (i : Instr), decode c p = .ok i → encode c i = p

/-- 30_encoding.md R94, R107 to R109: what decodes is well formed (its operands lie in the ranges of its row), but for
a payload or a read that is too long (DESIGN CHOICE, log 18) and a byte outside format KEY given to KEY_FROM_WIRE
(DEDUCED, log 8). That KEYPAD_EVENT is well formed with every mask byte and LED_BUF with every offset is the model's
choice (DESIGN CHOICE, log 19). That the packet is the word of what it decodes to is EncodeOfDecodeIsThePacket; what the
exceptions end with is said by the statements about their instructions. -/
def Obligations.DecodedIsWellFormedOrOutOfRange : Prop :=
  ∀ (c : Config) (p : Packet) (i : Instr), decode c p = .ok i →
    i.wellFormed = true ∨ (∃ m r pl, i = .writeRegister m r pl ∧ 32 ≤ pl.length) ∨
      (∃ m r n, i = .readRegister m r n ∧ 32 < n) ∨ (∃ n, i = .keypadFifo n ∧ 32 < n) ∨
      ∃ w, i = .keyFromWire w ∧ w &&& 0xE4 ≠ 0

/-- 30_encoding.md R97, 60_exceptions.md R210 (the spec's decisions D16, D17), 10_state.md R42 (decision D5): format
RES. The first byte is the status code; KEYPAD_COUNT adds the count; READ_KEY_EVENTS adds one byte per slot, 0xFF for
none, else the key index times 4 plus the kind code, High 0, Low 1, Falling 2, Rising 3, which tells all slots apart.
-/
def Obligations.ResultPortBytes : Prop :=
  (∀ b : Byte, Result.encode (.ok (.byte b)) = [0x00, b]) ∧
  (∀ l : List (Option KeypadEvent), Result.encode (.ok (.slots l)) = 0x00 :: l.map slotByte) ∧
  slotByte none = 0xFF ∧
  (∀ e : KeypadEvent, (slotByte (some e)).toNat = 4 * e.key.toNat + (kindCode e.kind).toNat) ∧
  (kindCode .high = 0 ∧ kindCode .low = 1 ∧ kindCode .falling = 2 ∧ kindCode .rising = 3) ∧
  (∀ x y : Option KeypadEvent, slotByte x = slotByte y → x = y) ∧
  (∀ e, Result.encode (.err (.writeFault e)) = [1]) ∧ (∀ e, Result.encode (.err (.readFault e)) = [2]) ∧
  Result.encode (.err .wrongIdentity) = [3] ∧ (∀ w, Result.encode (.err (.contractViolation w)) = [4]) ∧
  ∀ w, Result.encode (.err (.decodeFault w)) = [5]

/-! ## Codecs -/

/-- 40_color_codec.md R130, 30_encoding.md R103: COLOR_TO_WIRE returns `[g, r, b]`, for every color, and changes
nothing else. -/
def Obligations.ColorGoesOutGreenRedBlue : Prop :=
  ∀ (r g b : Byte) (s : State), Idle s → exec (.colorToWire r g b) s = .next (endedWith (.bytes [g, r, b]) s)

/-- 41_key_index_codec.md R135, R139: KEY_TO_WIRE computes the formula for an index below 16, with bits 7:5 and 2 of
the result 0; an index of 16 or more raises ContractViolation(KeyIndexRange) (the spec's decisions D7, D9). -/
def Obligations.KeyToWireFollowsTheFormula : Prop :=
  ∀ (i : Byte) (s : State), Idle s →
    (i.toNat < 16 →
      exec (.keyToWire i) s = .next (endedWith (.byte (((i &&& 0x0C) <<< 1) ||| (i &&& 0x03))) s) ∧
        (((i &&& 0x0C) <<< 1) ||| (i &&& 0x03)) &&& 0xE4 = 0) ∧
    (16 ≤ i.toNat → exec (.keyToWire i) s = .next (refusedWith .keyIndexRange s))

/-- 41_key_index_codec.md R136: KEY_FROM_WIRE on a byte of the image gives the key index the formula computes. Outside
the image the statement is the model's choice (DEDUCED, log 8): DecodeFault(MalformedKey), the error R140 gives its
one caller. -/
def Obligations.KeyFromWireFollowsTheFormula : Prop :=
  ∀ (w : Byte) (s : State), Idle s →
    (w &&& 0xE4 = 0 →
      ∃ i : KeyIndex, exec (.keyFromWire w) s = .next (endedWith (.key i) s) ∧
        i.toNat = (((w &&& 0xF8) >>> 1) ||| (w &&& 0x03)).toNat) ∧
    (w &&& 0xE4 ≠ 0 →
      exec (.keyFromWire w) s =
        .next { s with st := .faulted, seq := 0, result := some (.err (.decodeFault .malformedKey)) })

/-- 41_key_index_codec.md R138: the round trip, for all key indices; and, as R138 derives, for all sixteen packed key
ids. -/
def Obligations.KeyRoundTrip : Prop :=
  (∀ i : KeyIndex, ∃ w, keyToWire (i.setWidth 8) = .ok w ∧ keyFromWire w = some i) ∧
  ∀ (w : Byte) (i : KeyIndex), keyFromWire w = some i → keyToWire (i.setWidth 8) = .ok w

/-- 42_event_codec.md R145, R147, R148: EVENT_DECODE of every byte: the sentinel first, then DecodeFault for a byte
with bit 7 or bit 4 set (the spec's decisions D6, D9), else the key and the kind of its fields (D5). -/
def Obligations.EventDecodeOfEveryByte : Prop :=
  ∀ (e : Byte) (s : State), Idle s →
    exec (.eventDecode e) s =
      .next
        (if e = 0xFF then endedWith (.slot none) s
         else if e &&& 0x90 ≠ 0 then
           { s with st := .faulted, seq := 0, result := some (.err (.decodeFault .malformedKey)) }
         else endedWith (.slot (slotOf e)) s)

/-- 30_encoding.md R93, 42_event_codec.md R145 to R148, 10_state.md R42: the event byte classes of the opcode table,
each with its value: EV_EMPTY no event, EV_HIGH, EV_LOW, EV_FALLING and EV_RISING key `rrcc` with their kind,
EV_MALFORMED the decode fault (the spec's decisions D5, D6, D9). -/
def Obligations.EventByteClassesHaveTheirValue : Prop :=
  ∀ (r c : BitVec 2) (x : Byte) (s : State), Idle s →
    exec .evEmpty s = .next (endedWith (.slot none) s) ∧
    exec (.evHigh r c) s = .next (endedWith (.slot (some ⟨r ++ c, .high⟩)) s) ∧
    exec (.evLow r c) s = .next (endedWith (.slot (some ⟨r ++ c, .low⟩)) s) ∧
    exec (.evFalling r c) s = .next (endedWith (.slot (some ⟨r ++ c, .falling⟩)) s) ∧
    exec (.evRising r c) s = .next (endedWith (.slot (some ⟨r ++ c, .rising⟩)) s) ∧
    ((Instr.evMalformed x).wellFormed = true →
      exec (.evMalformed x) s =
        .next { s with st := .faulted, seq := 0, result := some (.err (.decodeFault .malformedKey)) })

/-! ## Register protocol layer -/

/-- 43_register_protocol.md R155: WRITE_REGISTER. A payload below 32 bytes is one write of `[m, r] ++ P` to `addr`,
ending Ok; a failing transport raises WriteFault with `st` unchanged; a payload of 32 bytes or more is rejected before
any transport call (the spec's decision D9: Faulted). In every lifecycle state (DEDUCED, log 10). -/
def Obligations.WriteRegisterIsOneFrame : Prop :=
  ∀ (m r : Byte) (p : List Byte) (s : State) (rest : List BusAnswer), Idle s →
    (p.length < 32 → ∀ d, s.busIn = .ok d :: rest →
      exec (.writeRegister m r p) s = .next (afterWrite (m :: r :: p) rest s)) ∧
    (p.length < 32 → ∀ e, s.busIn = .err e :: rest →
      exec (.writeRegister m r p) s = .next (afterWriteFault (m :: r :: p) e rest s)) ∧
    (32 ≤ p.length → exec (.writeRegister m r p) s = .next (refusedWith .payloadTooLong s))

/-- 43_register_protocol.md R156, R158: READ_REGISTER on the Full tier: address write, 6 ms, read; its bytes are
returned unchecked. A failing address write is WriteFault with no delay and no read; a failing read is ReadFault; a
length above 32 is rejected before any transport call (the spec's decisions D10, D9). In every lifecycle state
(DEDUCED, log 10). -/
def Obligations.ReadRegisterFullTier : Prop :=
  ∀ (m r : Byte) (n : Nat) (s : State) (rest : List BusAnswer), Idle s → s.cfg.tier = .full →
    (n ≤ 32 → ∀ d0 d k, s.busIn = .ok d0 :: .ok d :: rest → s.delayIn = k + 1 →
      exec (.readRegister m r n) s =
        .next (afterReadFull m r n (d.toList.take n) rest k (.ok (.bytes (d.toList.take n))) s)) ∧
    (n ≤ 32 → ∀ e, s.busIn = .err e :: rest →
      exec (.readRegister m r n) s = .next (afterWriteFault [m, r] e rest s)) ∧
    (n ≤ 32 → ∀ d0 e k, s.busIn = .ok d0 :: .err e :: rest → s.delayIn = k + 1 →
      exec (.readRegister m r n) s =
        .next { s with
          seq := 0
          fb := overlay [m, r] s.fb
          busIn := rest
          delayIn := k
          trace := s.trace ++ [.tw s.addr [m, r] .ok, .dly 6, .tr s.addr n (.err e)]
          result := some (.err (.readFault e)) }) ∧
    (32 < n → exec (.readRegister m r n) s = .next (refusedWith .readTooLong s))

/-- 43_register_protocol.md R157, R158: READ_REGISTER on the Lite tier: one write-then-read, no delay; any failure is
ReadFault; a length above 32 is rejected before any transport call (the spec's decisions D10, D9). In every lifecycle
state (DEDUCED, log 10). -/
def Obligations.ReadRegisterLiteTier : Prop :=
  ∀ (m r : Byte) (n : Nat) (s : State) (rest : List BusAnswer), Idle s → s.cfg.tier = .lite →
    (n ≤ 32 → ∀ d, s.busIn = .ok d :: rest →
      exec (.readRegister m r n) s =
        .next (afterReadLite m r n (d.toList.take n) rest (.ok (.bytes (d.toList.take n))) s)) ∧
    (n ≤ 32 → ∀ e, s.busIn = .err e :: rest →
      exec (.readRegister m r n) s =
        .next { s with
          seq := 0
          fb := overlay [m, r] s.fb
          busIn := rest
          trace := s.trace ++ [.twr s.addr [m, r] n (.err e)]
          result := some (.err (.readFault e)) }) ∧
    (32 < n → exec (.readRegister m r n) s = .next (refusedWith .readTooLong s))

/-- 43_register_protocol.md R159, as that rule derives it: for the same register and length, if the Full tier's write
is answered Ok and its read with the answer the Lite tier's transaction gets, both return the same result: the same
bytes, or the same ReadFault. -/
def Obligations.TiersReadTheSame : Prop :=
  ∀ (m r : Byte) (n : Nat) (f l : State) (d0 : Vector Byte 32) (x : BusAnswer) (fr lr : List BusAnswer),
    Idle f → Idle l → f.cfg.tier = .full → l.cfg.tier = .lite → n ≤ 32 →
    f.busIn = .ok d0 :: x :: fr → 0 < f.delayIn → l.busIn = x :: lr →
      ∃ tf tl, exec (.readRegister m r n) f = .next tf ∧ exec (.readRegister m r n) l = .next tl ∧
        tf.result = tl.result ∧
        ((∃ d, x = .ok d ∧ tf.result = some (.ok (.bytes (d.toList.take n)))) ∨
          ∃ e, x = .err e ∧ tf.result = some (.err (.readFault e)))

/-- 30_encoding.md R92, 10_state.md R31, R33 to R37: the named write frames, byte by byte, each one write to `addr`
that ends Ok; they are sent in every lifecycle state and on both tiers (DEDUCED, log 10), LED_BUF with every offset
and KEYPAD_EVENT with every mask byte (DESIGN CHOICE, log 19). -/
def Obligations.NamedWriteFramesAreSent : Prop :=
  ∀ (s : State) (d : Vector Byte 32) (rest : List BusAnswer), Idle s → s.busIn = .ok d :: rest →
    exec .swrst s = .next (afterWrite [0x00, s.cfg.regStatusSwrst, 0xFF] rest s) ∧
    exec .ledPin s = .next (afterWrite [0x0E, s.cfg.regLedPin, 0x03] rest s) ∧
    exec .ledBufLength s = .next (afterWrite [0x0E, s.cfg.regLedBufLength, 0x00, 0x30] rest s) ∧
    (∀ h l g r b : Byte, exec (.ledBuf h l g r b) s = .next (afterWrite [0x0E, 0x04, h, l, g, r, b] rest s)) ∧
    exec .ledShow s = .next (afterWrite [0x0E, s.cfg.regLedShow] rest s) ∧
    ∀ (r c : BitVec 2) (mask : Byte),
      exec (.keypadEvent r c mask) s =
        .next (afterWrite [0x10, s.cfg.regKeypadEvent, 0#3 ++ r ++ 0#1 ++ c, mask] rest s)

/-- 30_encoding.md R92, 10_state.md R32, R38, R39, on the Full tier: the named read sequences. HW_ID reads one byte
and compares it with `HW_ID_CODE` (its outcome as a result: the model's choice, DEDUCED, log 11); KEYPAD_COUNT reads
one byte; KEYPAD_FIFO reads `n`, and for `n` above 32 raises ContractViolation(ReadTooLong) with nothing sent
(43_register_protocol.md R158, the spec's decisions D9, D10; log 18). In every lifecycle state (DEDUCED, log 10). -/
def Obligations.NamedReadFramesFullTier : Prop :=
  ∀ s : State, Idle s → s.cfg.tier = .full →
    (∀ (d0 d : Vector Byte 32) (rest : List BusAnswer) (k : Nat), s.busIn = .ok d0 :: .ok d :: rest →
      s.delayIn = k + 1 →
      exec .hwId s =
        .next (afterReadFull 0x00 s.cfg.regStatusHwId 1 [d[0]] rest k
          (.ok (.identity d[0] (decide (d[0] = s.cfg.hwIdCode)))) s) ∧
      exec .keypadCountReg s =
        .next (afterReadFull 0x10 s.cfg.regKeypadCount 1 [d[0]] rest k (.ok (.byte d[0])) s) ∧
      ∀ n : Nat, n ≤ 32 →
        exec (.keypadFifo n) s =
          .next (afterReadFull 0x10 s.cfg.regKeypadFifo n (d.toList.take n) rest k (.ok (.bytes (d.toList.take n))) s)) ∧
    ∀ n : Nat, 32 < n → exec (.keypadFifo n) s = .next (refusedWith .readTooLong s)

/-- The same on the Lite tier, each one write-then-read (30_encoding.md R91, 43_register_protocol.md R157, R158; that
these frames run on Lite at all, and in every lifecycle state: DEDUCED, log 10; log 11, log 18). -/
def Obligations.NamedReadFramesLiteTier : Prop :=
  ∀ s : State, Idle s → s.cfg.tier = .lite →
    (∀ (d : Vector Byte 32) (rest : List BusAnswer), s.busIn = .ok d :: rest →
      exec .hwId s =
        .next (afterReadLite 0x00 s.cfg.regStatusHwId 1 [d[0]] rest
          (.ok (.identity d[0] (decide (d[0] = s.cfg.hwIdCode)))) s) ∧
      exec .keypadCountReg s =
        .next (afterReadLite 0x10 s.cfg.regKeypadCount 1 [d[0]] rest (.ok (.byte d[0])) s) ∧
      ∀ n : Nat, n ≤ 32 →
        exec (.keypadFifo n) s =
          .next (afterReadLite 0x10 s.cfg.regKeypadFifo n (d.toList.take n) rest (.ok (.bytes (d.toList.take n))) s)) ∧
    ∀ n : Nat, 32 < n → exec (.keypadFifo n) s = .next (refusedWith .readTooLong s)

/-- 60_exceptions.md R211, R214, R216: whichever instruction but NEW writes a frame first, a failing transport ends it
with WriteFault after that one event; `st` is unchanged and nothing more is sent (no delay after a failed show). NEW
has FailingWriteStopsBringUp. For an inner layer issued on its own: DEDUCED, log 10. -/
def Obligations.FailingWriteRaisesWriteFault : Prop :=
  ∀ (i : Instr) (x : List Byte) (s : State) (e : TransportError) (rest : List BusAnswer),
    Idle s → Allowed i s → writeFrameOf s.cfg i = some x → s.busIn = .err e :: rest →
      exec i s = .next (afterWriteFault x e rest s)

/-- 60_exceptions.md R211, R212, R214, 43_register_protocol.md R156, R157: whichever instruction but NEW performs a
read sequence, a failing address write (Full) is WriteFault after that one event, a failing read (Full) is ReadFault
after the three, and a failing write-then-read (Lite) is ReadFault after the one; `st` is unchanged. NEW has
FailingWriteStopsBringUp and FailingIdentityReadStopsBringUp. For an inner layer issued on its own: DEDUCED, log 10.
-/
def Obligations.FailingReadRaisesTheHalfsFault : Prop :=
  ∀ (i : Instr) (m r : Byte) (n : Nat) (s : State) (e : TransportError) (rest : List BusAnswer),
    Idle s → Allowed i s → readOf s.cfg i = some (m, r, n) → n ≤ 32 →
    (s.cfg.tier = .full → s.busIn = .err e :: rest → exec i s = .next (afterWriteFault [m, r] e rest s)) ∧
    (s.cfg.tier = .full → ∀ d0 k, s.busIn = .ok d0 :: .err e :: rest → s.delayIn = k + 1 →
      ∃ t, exec i s = .next t ∧ t.result = some (.err (.readFault e)) ∧ t.st = s.st ∧ Idle t ∧
        t.trace = s.trace ++ [.tw s.addr [m, r] .ok, .dly 6, .tr s.addr n (.err e)] ∧ t.busIn = rest) ∧
    (s.cfg.tier = .lite → s.busIn = .err e :: rest →
      ∃ t, exec i s = .next t ∧ t.result = some (.err (.readFault e)) ∧ t.st = s.st ∧ Idle t ∧
        t.trace = s.trace ++ [.twr s.addr [m, r] n (.err e)] ∧ t.busIn = rest)

/-! ## Commands -/

/-- 60_exceptions.md R225, R213, R221: every command in every lifecycle state and tier that does not run it is refused
with the matrix's reason, sends nothing, and leaves the block Faulted (the spec's decisions D9, D12). -/
def Obligations.RefusedCommandsFollowTheMatrix : Prop :=
  ∀ (i : Instr) (s : State) (why : ContractReason), Idle s → refusalReason s.cfg.tier s.st i = some why →
    exec i s = .next (refusedWith why s)

/-- 30_encoding.md R109, 60_exceptions.md R217: a reserved command opcode, whatever bytes follow it, raises
ContractViolation(BadCommand) and sends nothing (the spec's decisions D9, D17). In Faulted the first check of R213
decides, for a reserved opcode too (DEDUCED, log 9). A packet on the command port that begins with a reserved opcode
is such a command. -/
def Obligations.ReservedOpcodeRaisesBadCommand : Prop :=
  (∀ (x : Byte) (operands : List Byte) (s : State), Idle s →
    (s.st ≠ .faulted → exec (.cmdReserved ⟨x, operands⟩) s = .next (refusedWith .badCommand s)) ∧
    (s.st = .faulted → exec (.cmdReserved ⟨x, operands⟩) s = .next (refusedWith .faulted s))) ∧
  ∀ (c : Config) (x : Byte) (operands : List Byte), 5 ≤ x.toNat →
    decode c ⟨.command, x :: operands, 0⟩ = .ok (.cmdReserved ⟨x, operands⟩)

/-- 44_bringup.md R175, R178: the Full-tier bring-up, every request answered Ok and the identity byte right, ends
Ready with the 71 events of R178 in order. The order of its last 64 is the spec's canonical one (decision D11, log 7).
-/
def Obligations.BringUpFullTierCompletes : Prop :=
  ∀ (a : DevAddr) (s : State) (d1 d2 d3 : Vector Byte 32) (ds : List (Vector Byte 32)) (rest : List BusAnswer)
    (k : Nat),
    Idle s → s.st = .uninitialized → s.cfg.tier = .full → d3[0] = s.cfg.hwIdCode → ds.length = 66 →
    s.busIn = .ok d1 :: .ok d2 :: .ok d3 :: (ds.map BusAnswer.ok ++ rest) → s.delayIn = k + 2 →
    ∃ t, exec (.new a) s = .next t ∧ t.st = .ready ∧ t.addr = a ∧ t.result = some (.ok .unit) ∧ Idle t ∧ t.seq = 0 ∧
      t.trace = s.trace ++ bringUpTrace s.cfg a ∧ t.busIn = rest ∧ t.delayIn = k ∧ t.rb = overlay [d3[0]] s.rb ∧
      t.fb = overlay [0x10, s.cfg.regKeypadEvent, 0x1B, 0x11] s.fb ∧
      t.cfg = s.cfg ∧ t.cmdIn = s.cmdIn ∧ t.resetIn = s.resetIn ∧ t.epoch = s.epoch

/-- 44_bringup.md R176: the Lite-tier bring-up is the two LED configuration writes and ends Ready. -/
def Obligations.BringUpLiteTierCompletes : Prop :=
  ∀ (a : DevAddr) (s : State) (d1 d2 : Vector Byte 32) (rest : List BusAnswer),
    Idle s → s.st = .uninitialized → s.cfg.tier = .lite → s.busIn = .ok d1 :: .ok d2 :: rest →
    ∃ t, exec (.new a) s = .next t ∧ t.st = .ready ∧ t.addr = a ∧ t.result = some (.ok .unit) ∧ Idle t ∧ t.seq = 0 ∧
      t.trace = s.trace ++ ledSetupTrace s.cfg a ∧ t.busIn = rest ∧ t.delayIn = s.delayIn ∧ t.rb = s.rb ∧
      t.fb = overlay [0x0E, s.cfg.regLedBufLength, 0x00, 0x30] s.fb ∧
      t.cfg = s.cfg ∧ t.cmdIn = s.cmdIn ∧ t.resetIn = s.resetIn ∧ t.epoch = s.epoch

/-- 44_bringup.md R179, R180 (the spec's decision D13), 60_exceptions.md R216: on an identity mismatch the result is
WrongIdentity, the trace ends after the identity read, no configuration write is sent, and the block stays
Uninitialized. -/
def Obligations.WrongIdentityStopsBringUp : Prop :=
  ∀ (a : DevAddr) (s : State) (d1 d2 d3 : Vector Byte 32) (rest : List BusAnswer) (k : Nat),
    Idle s → s.st = .uninitialized → s.cfg.tier = .full → d3[0] ≠ s.cfg.hwIdCode →
    s.busIn = .ok d1 :: .ok d2 :: .ok d3 :: rest → s.delayIn = k + 2 →
    ∃ t, exec (.new a) s = .next t ∧ t.st = .uninitialized ∧ t.result = some (.err .wrongIdentity) ∧ Idle t ∧
      t.trace = s.trace ++ identityTrace s.cfg a d3[0] ∧ t.busIn = rest

/-- 44_bringup.md R175, R176, R180 (the spec's decision D13), 60_exceptions.md R211, R214, R219: in a bring-up on
either tier a write that fails, every request before it answered Ok and the identity byte, where it was read, the
right one, ends it with WriteFault: its trace is the events before that write and the failing one, `addr` is the
operand, `st` is unchanged, no further answer is taken. Every write of the bring-up is meant, the address write of the
identity read too; the order of the 64 arming writes is the spec's canonical one (decision D11, log 7). -/
def Obligations.FailingWriteStopsBringUp : Prop :=
  ∀ (a : DevAddr) (x : List Byte) (pre post : List Event) (s : State) (oks : List (Vector Byte 32))
    (e : TransportError) (rest : List BusAnswer) (k : Nat),
    Idle s → s.st = .uninitialized → newTrace s.cfg a = pre ++ .tw a x .ok :: post →
    oks.length = pre.countP (fun ev => !ev.isDelay) → (∀ d, oks[2]? = some d → d[0] = s.cfg.hwIdCode) →
    s.busIn = oks.map BusAnswer.ok ++ .err e :: rest → s.delayIn = k + pre.countP Event.isDelay →
    ∃ t, exec (.new a) s = .next t ∧ t.result = some (.err (.writeFault e)) ∧ Idle t ∧ t.st = .uninitialized ∧
      t.addr = a ∧ t.trace = s.trace ++ pre ++ [.tw a x (.err e)] ∧ t.busIn = rest ∧ t.delayIn = k

/-- 44_bringup.md R175, R180 (the spec's decision D13), 60_exceptions.md R212, R219: an identity read that fails ends
the Full-tier bring-up with ReadFault after event 5 of R178; `addr` is the operand, `st` is unchanged. -/
def Obligations.FailingIdentityReadStopsBringUp : Prop :=
  ∀ (a : DevAddr) (s : State) (d1 d2 : Vector Byte 32) (e : TransportError) (rest : List BusAnswer) (k : Nat),
    Idle s → s.st = .uninitialized → s.cfg.tier = .full → s.busIn = .ok d1 :: .ok d2 :: .err e :: rest →
    s.delayIn = k + 2 →
    ∃ t, exec (.new a) s = .next t ∧ t.result = some (.err (.readFault e)) ∧ Idle t ∧ t.st = .uninitialized ∧
      t.addr = a ∧ t.trace = s.trace ++ [.tw a [0x00, s.cfg.regStatusSwrst, 0xFF] .ok, .dly 500,
        .tw a [0x00, s.cfg.regStatusHwId] .ok, .dly 6, .tr a 1 (.err e)] ∧ t.busIn = rest ∧ t.delayIn = k

/-- 44_bringup.md R180, 60_exceptions.md R216: a bring-up that ended without Ok left the block Uninitialized, `addr`
at the operand, and its result is WriteFault, ReadFault or WrongIdentity; so NEW may be issued again (the spec's
decision D13). -/
def Obligations.FailedBringUpStaysUninitialized : Prop :=
  ∀ (a : DevAddr) (s t : State), Idle s → s.st = .uninitialized → exec (.new a) s = .next t → Idle t →
    t.result ≠ some (.ok .unit) →
      t.st = .uninitialized ∧ t.addr = a ∧
        ((∃ e, t.result = some (.err (.writeFault e))) ∨ (∃ e, t.result = some (.err (.readFault e))) ∨
          t.result = some (.err .wrongIdentity))

/-- 45_ready_ops.md R190, 30_encoding.md R99: SET_LED_COLOR for an index below 16 is the one write `[0E, 04, hi, lo,
g, r, b]` with offset `index * 3`, and ends Ok. -/
def Obligations.SetLedColorWritesThePixel : Prop :=
  ∀ (index r g b : Byte) (s : State) (d : Vector Byte 32) (rest : List BusAnswer),
    Idle s → s.st = .ready → index.toNat < 16 → s.busIn = .ok d :: rest →
    exec (.setLedColor index r g b) s =
      .next (afterWrite [0x0E, 0x04, BitVec.ofNat 8 (index.toNat * 3 / 256), BitVec.ofNat 8 (index.toNat * 3 % 256),
        g, r, b] rest s)

/-- 45_ready_ops.md R196 (the spec's decisions D8, D9): an LED index of 16 or more in Ready raises
ContractViolation(LedIndexRange) and nothing is sent. -/
def Obligations.LedIndexOutOfRangeIsRefused : Prop :=
  ∀ (index r g b : Byte) (s : State), Idle s → s.st = .ready → 16 ≤ index.toNat →
    exec (.setLedColor index r g b) s = .next (refusedWith .ledIndexRange s)

/-- 45_ready_ops.md R191: SHOW_LED is the two-byte frame, followed on the Full tier, and there only, by the 8 ms
delay; both end Ok. -/
def Obligations.ShowLedWritesAndSettles : Prop :=
  ∀ (s : State) (d : Vector Byte 32) (rest : List BusAnswer), Idle s → s.st = .ready → s.busIn = .ok d :: rest →
    (s.cfg.tier = .lite → exec .showLed s = .next (afterWrite [0x0E, s.cfg.regLedShow] rest s)) ∧
    (s.cfg.tier = .full → ∀ k, s.delayIn = k + 1 →
      exec .showLed s =
        .next { afterWrite [0x0E, s.cfg.regLedShow] rest s with
          delayIn := k
          trace := s.trace ++ [.tw s.addr [0x0E, s.cfg.regLedShow] .ok, .dly 8] })

/-- 45_ready_ops.md R192: READ_KEY_EVENTS on bytes none of which is malformed returns one slot per byte, in order, and
changes neither `st` nor `addr`. -/
def Obligations.ReadKeyEventsReturnsTheSlots : Prop :=
  ∀ (n : Byte) (s : State) (d0 d : Vector Byte 32) (rest : List BusAnswer) (k : Nat),
    Idle s → s.st = .ready → s.cfg.tier = .full → n.toNat ≤ 32 →
    s.busIn = .ok d0 :: .ok d :: rest → s.delayIn = k + 1 →
    (∀ b ∈ d.toList.take n.toNat, wellFormedEvent b = true) →
    exec (.readKeyEvents n) s =
      .next (afterReadFull 0x10 s.cfg.regKeypadFifo n.toNat (d.toList.take n.toNat) rest k
        (.ok (.slots ((d.toList.take n.toNat).map slotOf))) s)

/-- 45_ready_ops.md R192, 60_exceptions.md R216, R219: one malformed byte among those read raises
DecodeFault(MalformedKey) after the whole read sequence, no slots are returned, and the block is Faulted (the spec's
decisions D6, D9). -/
def Obligations.MalformedEventByteFaults : Prop :=
  ∀ (n : Byte) (s : State) (d0 d : Vector Byte 32) (rest : List BusAnswer) (k : Nat),
    Idle s → s.st = .ready → s.cfg.tier = .full → n.toNat ≤ 32 →
    s.busIn = .ok d0 :: .ok d :: rest → s.delayIn = k + 1 →
    (∃ b ∈ d.toList.take n.toNat, wellFormedEvent b = false) →
    exec (.readKeyEvents n) s =
      .next { afterReadFull 0x10 s.cfg.regKeypadFifo n.toNat (d.toList.take n.toNat) rest k
        (.err (.decodeFault .malformedKey)) s with st := .faulted }

/-- 45_ready_ops.md R192, 30_encoding.md R108: a slot count above 32 raises ContractViolation(ReadTooLong) before any
transport call (the spec's decisions D9, D10). -/
def Obligations.TooManySlotsAreRefused : Prop :=
  ∀ (n : Byte) (s : State), Idle s → s.st = .ready → s.cfg.tier = .full → 32 < n.toNat →
    exec (.readKeyEvents n) s = .next (refusedWith .readTooLong s)

/-- 45_ready_ops.md R193, 10_state.md R38: KEYPAD_COUNT reads one byte and returns it as read. -/
def Obligations.KeypadCountReturnsTheByte : Prop :=
  ∀ (s : State) (d0 d : Vector Byte 32) (rest : List BusAnswer) (k : Nat),
    Idle s → s.st = .ready → s.cfg.tier = .full → s.busIn = .ok d0 :: .ok d :: rest → s.delayIn = k + 1 →
    exec .keypadCount s =
      .next (afterReadFull 0x10 s.cfg.regKeypadCount 1 [d[0]] rest k (.ok (.byte d[0])) s)

/-! ## Frames and whole-machine rules -/

/-- The frame of every instruction (10_state.md R20 to R26, 60_exceptions.md R216): none changes the build, the
packets offered, the reset input or the reset counter; each only adds to the trace and only takes answers and delays;
only NEW changes `addr`; only an instruction that reads changes RB, and only one that writes a frame changes FB; but
for NEW none changes `st`, unless it ends with a fail-fast error and the block Faulted; one that makes no request
changes nothing but `result`, `seq` and, when it raises, `st`. -/
def Obligations.FrameOfEveryInstruction : Prop :=
  ∀ (i : Instr) (s t : State), exec i s = .next t →
    t.cfg = s.cfg ∧ t.cmdIn = s.cmdIn ∧ t.resetIn = s.resetIn ∧ t.epoch = s.epoch ∧ s.trace <+: t.trace ∧
    t.busIn <:+ s.busIn ∧ t.delayIn ≤ s.delayIn ∧
    ((∀ a, i ≠ .new a) → t.addr = s.addr) ∧
    ((∀ a, i ≠ .new a) → readOf s.cfg i = none → t.rb = s.rb) ∧
    ((∀ a, i ≠ .new a) → readOf s.cfg i = none → writeFrameOf s.cfg i = none → t.fb = s.fb) ∧
    ((∀ a, i ≠ .new a) →
      t.st = s.st ∨ t.st = .faulted ∧ ∃ k, t.result = some (.err k) ∧ k.failFast = true) ∧
    ((i.isCodec = true ∨ ∃ x, i = .cmdReserved x) →
      t.fb = s.fb ∧ t.rb = s.rb ∧ t.addr = s.addr ∧ t.busIn = s.busIn ∧ t.delayIn = s.delayIn ∧ t.trace = s.trace ∧
        t.current = s.current)

/-- 60_exceptions.md R228, R216, R221, 10_state.md R20: what a step can do to the lifecycle state, from a state the
machine's runs keep (`RunInv`): leave it; take Uninitialized to Ready with a NEW that ended Ok; enter Faulted with a
fail-fast error as the result; or, on the reset input alone, go to Uninitialized. So Faulted is left only by reset
(the spec's decisions D9, D18). -/
def Obligations.LifecycleTransitions : Prop :=
  ∀ s t : State, RunInv s → step s = .next t →
    t.st = s.st ∨
    (s.st = .uninitialized ∧ t.st = .ready ∧ t.result = some (.ok .unit) ∧ Idle t ∧
      ((∃ a, s.current = some (.new a)) ∨ ∃ p rest a, s.cmdIn = p :: rest ∧ decode s.cfg p = .ok (.new a))) ∨
    (s.st ≠ .faulted ∧ t.st = .faulted ∧ ∃ k, t.result = some (.err k) ∧ k.failFast = true) ∨
    (s.resetIn = true ∧ t.st = .uninitialized)

/-- 10_state.md R21: `addr` is written by NEW only and never changes while Ready (but for the reset input, which
leaves Ready). -/
def Obligations.AddressIsFixedWhileReady : Prop :=
  ∀ s t : State, s.st = .ready → s.resetIn = false → step s = .next t → t.addr = s.addr

/-- 60_exceptions.md R219, R214: precision, as R219 derives it. Whatever the oracle answers, what an accepted
operation adds to the trace is the events of a first part of its body, all answered Ok, then at most its failing
request; where it ended there is the error of that request, where it waits, `seq` counts its events. An operation
refused by its checks adds nothing. -/
def Obligations.TraceIsAPrefixOfTheBody : Prop :=
  ∀ (i : Instr) (s t : State), Idle s → exec i s = .next t →
    (t.trace = s.trace ∧ ∃ why, t.result = some (.err (.contractViolation why))) ∨
    ∃ (done left : List Act) (es : List Event), bodyOf s.cfg i = done ++ left ∧ OkTrace t.addr done es ∧
      ((left = [] ∧ Idle t ∧ t.trace = s.trace ++ es) ∨
        (∃ act more e k, left = act :: more ∧ Event.FailsAs t.addr e k act ∧ Idle t ∧
          t.trace = s.trace ++ es ++ [e] ∧ t.result = some (.err k)) ∨
        (∃ act more, left = act :: more ∧ t.current = some i ∧ t.seq = done.length ∧ t.trace = s.trace ++ es))

/-- 20_memory.md R51 to R53, R57, 30_encoding.md R110: every request a command makes goes to `addr`; every frame it
writes, one that fails too, is one of the frames of R92 with the operands R110 leaves (`IsEmitted`); a separate read
asks for at most 32 bytes; no command writes and reads in one transaction. -/
def Obligations.CommandsEmitOnlyTheListedFrames : Prop :=
  ∀ (i : Instr) (s t : State) (e : Event), i.isCommand = true → Idle s → exec i s = .next t →
    e ∈ t.trace.drop s.trace.length →
      (∃ x ans, e = .tw t.addr x ans ∧ IsEmitted s.cfg x) ∨
      (∃ n ans, e = .tr t.addr n ans ∧ n ≤ 32) ∨
      (∃ ms, e = .dly ms ∧ (ms = 500 ∨ ms = 6 ∨ ms = 8))

/-- 20_memory.md R61, R62, R65: a step of a Full-tier block makes no write-then-read; one of a Lite-tier block makes
no separate read and no delay. -/
def Obligations.TierFixesTheTransactions : Prop :=
  ∀ (s t : State) (e : Event), step s = .next t → e ∈ t.trace.drop s.trace.length →
    (s.cfg.tier = .full → ∀ a x n ans, e ≠ .twr a x n ans) ∧
    (s.cfg.tier = .lite → (∀ a n ans, e ≠ .tr a n ans) ∧ ∀ ms, e ≠ .dly ms)

/-- 45_ready_ops.md R195: a ready-state command depends on nothing an earlier one did inside the block: from two idle
Ready states that agree on the build, the address and the answers to come, whatever their buffers, results and traces
hold, it adds the same events and comes to the same state and, when it ends, the same result. -/
def Obligations.ReadyCommandsAreIndependent : Prop :=
  ∀ (i : Instr) (s₁ s₂ t₁ t₂ : State), i.isCommand = true →
    Idle s₁ → Idle s₂ → s₁.st = .ready → s₂.st = .ready → s₁.cfg = s₂.cfg → s₁.addr = s₂.addr →
    s₁.busIn = s₂.busIn → s₁.delayIn = s₂.delayIn → exec i s₁ = .next t₁ → exec i s₂ = .next t₂ →
      (∃ es, t₁.trace = s₁.trace ++ es ∧ t₂.trace = s₂.trace ++ es) ∧ t₁.st = t₂.st ∧ t₁.current = t₂.current ∧
        t₁.seq = t₂.seq ∧ t₁.busIn = t₂.busIn ∧ t₁.delayIn = t₂.delayIn ∧ (Idle t₁ → t₁.result = t₂.result)

/-! ## Invariants -/

/-- The three invariants hold after reset. -/
def Obligations.InvariantsHoldAtReset : Prop := RunInv State.reset ∧ SettleInv State.reset ∧ ReadyInv State.reset

/-- 10_state.md R23, 60_exceptions.md R213, R225: from every state in which an operation in progress stands at a
request of its body and is one its checks allow, a step gives such a state. -/
def Obligations.StepKeepsTheRunningOperationLegal : Prop :=
  ∀ s t : State, RunInv s → step s = .next t → RunInv t

/-- 20_memory.md R72, 70_reset_and_hazards.md R245, R247: from every state in which each separate read came right
after the 6 ms delay and the address write, a step gives such a state, whatever is offered, answered or reset. -/
def Obligations.StepKeepsReadsSettled : Prop :=
  ∀ s t : State, SettleInv s → step s = .next t → SettleInv t

/-- 70_reset_and_hazards.md R242, R243: from every state in which Ready means that a whole bring-up to `addr` stands
in the trace, all answered Ok, a step gives such a state. -/
def Obligations.StepKeepsTheReadyPromise : Prop :=
  ∀ s t : State, ReadyInv s → step s = .next t → ReadyInv t

/-! ## The informative reference chip (20_memory.md R67) -/

/-- 20_memory.md R67, R53: against the reference chip SET_LED_COLOR ends Ok, and the three bytes of its pixel are
green, red, blue while all others stay. A statement about the fixture, not about any chip (log 12). -/
def Obligations.SetLedColorPaintsTheReferenceChip : Prop :=
  ∀ (index r g b : Byte) (s : State) (ch : RefChip), Idle s → s.st = .ready → index.toNat < 16 →
    (∃ t, exec (.setLedColor index r g b) (s.against ch (.setLedColor index r g b)) = .next t ∧
      t.result = some (.ok .unit)) ∧
    (RefChip.after s.cfg (.setLedColor index r g b) ch).pix.toList =
      ch.pix.toList.take (index.toNat * 3) ++ [g, r, b] ++ ch.pix.toList.drop (index.toNat * 3 + 3)

/-- 20_memory.md R67, R54, 45_ready_ops.md R192: against the reference chip READ_KEY_EVENTS returns the first pending
events, one per slot, and no event in the slots beyond them; the chip keeps the rest. A statement about the fixture,
not about any chip (log 12). -/
def Obligations.ReadKeyEventsDrainsTheReferenceChip : Prop :=
  ∀ (n : Byte) (s : State) (ch : RefChip), Idle s → s.st = .ready → s.cfg.tier = .full → s.cfg.distinct = true →
    n.toNat ≤ 32 → (∀ b ∈ ch.fifo.take n.toNat, wellFormedEvent b = true) →
    (∃ t, exec (.readKeyEvents n) (s.against ch (.readKeyEvents n)) = .next t ∧
      t.result = some (.ok (.slots ((ch.fifo.take n.toNat).map slotOf ++
        List.replicate (n.toNat - ch.fifo.length) none)))) ∧
    (RefChip.after s.cfg (.readKeyEvents n) ch).fifo = ch.fifo.drop n.toNat
end

