-- ==== Sys2Proof/Laws/Decode.lean ====
section
/-! SUPPORT. The bit fields of the encodings, and the registers told apart. -/

namespace Sys2Proof

/-! ### Bit fields -/

theorem keyRow_keyByte : ∀ r c : BitVec 2, keyRow (keyByte r c) = r := by decide
theorem keyCol_keyByte : ∀ r c : BitVec 2, keyCol (keyByte r c) = c := by decide
theorem isKeyByte_keyByte : ∀ r c : BitVec 2, isKeyByte (keyByte r c) = true := by decide
theorem keyByte_of_isKeyByte : ∀ w : Byte, isKeyByte w = true → keyByte (keyRow w) (keyCol w) = w := by decide

/-- The key index a byte of format KEY stands for gives that byte back. -/
theorem keyByte_of_index :
    ∀ r c : BitVec 2, keyByte ((0#4 ++ r ++ c : Byte).extractLsb' 2 2) ((0#4 ++ r ++ c : Byte).extractLsb' 0 2) =
      keyByte r c := by decide

theorem index_of_keyByte : ∀ i : Byte, i.toNat < 16 →
    (0#4 ++ keyRow (keyByte (i.extractLsb' 2 2) (i.extractLsb' 0 2)) ++
      keyCol (keyByte (i.extractLsb' 2 2) (i.extractLsb' 0 2)) : Byte) = i := by decide

theorem decodeEventByte_high : ∀ r c : BitVec 2, decodeEventByte (eventByte r c 0) = .evHigh r c := by decide
theorem decodeEventByte_low : ∀ r c : BitVec 2, decodeEventByte (eventByte r c 1) = .evLow r c := by decide
theorem decodeEventByte_falling : ∀ r c : BitVec 2, decodeEventByte (eventByte r c 2) = .evFalling r c := by decide
theorem decodeEventByte_rising : ∀ r c : BitVec 2, decodeEventByte (eventByte r c 3) = .evRising r c := by decide

theorem decodeEventByte_malformed {x : Byte} (h1 : x ≠ 0xFF) (h2 : x &&& 0x90 ≠ 0) :
    decodeEventByte x = .evMalformed x := by
  have h1 : ¬x = Config.fifoEmpty := h1
  unfold decodeEventByte
  rw [if_neg h1, if_pos h2]

theorem address_msb : ∀ a : DevAddr, (0#1 ++ a : Byte).msb = false := by decide
theorem address_low : ∀ a : DevAddr, (0#1 ++ a : Byte).setWidth 7 = a := by decide
theorem address_of_byte : ∀ b : Byte, b.msb = false → (0#1 ++ b.setWidth 7 : Byte) = b := by decide

/-! ### Registers told apart (30_encoding.md R105) -/

/-- What `distinct` says of the registers within one module. -/
theorem Config.distinct_spec {c : Config} (h : c.distinct = true) :
    c.regStatusHwId ≠ c.regStatusSwrst ∧
    (c.regLedPin ≠ c.regLedBufLength ∧ c.regLedPin ≠ 4#8 ∧ c.regLedPin ≠ c.regLedShow ∧
      c.regLedBufLength ≠ 4#8 ∧ c.regLedBufLength ≠ c.regLedShow ∧ c.regLedShow ≠ 4#8) ∧
    (c.regKeypadEvent ≠ c.regKeypadCount ∧ c.regKeypadEvent ≠ c.regKeypadFifo ∧
      c.regKeypadCount ≠ c.regKeypadFifo) := by
  simp only [Config.distinct, Config.registerPairs, Config.modStatus, Config.modLed, Config.modKeypad,
    Config.regLedBuf, List.nodup_cons, List.mem_cons, Prod.mk.injEq, List.not_mem_nil,
    or_false, not_or, not_and] at h
  simp_all
  exact fun h' => h.2.2.2.1 h'.symm

end Sys2Proof
end

