-- ==== Sys2Proof/Laws/State.lean ====
section
/-! SUPPORT. One lemma per field per update of State, each true by rfl, so that no proof unfolds a record update. -/

namespace Sys2Proof.Machine

/-! ### State.stage -/

@[simp] theorem State.stage_st (xs : List Byte) (s : State) : (State.stage xs s).st = s.st := rfl
@[simp] theorem State.stage_addr (xs : List Byte) (s : State) : (State.stage xs s).addr = s.addr := rfl
@[simp] theorem State.stage_fb (xs : List Byte) (s : State) : (State.stage xs s).fb = overlay xs s.fb := rfl
@[simp] theorem State.stage_rb (xs : List Byte) (s : State) : (State.stage xs s).rb = s.rb := rfl
@[simp] theorem State.stage_current (xs : List Byte) (s : State) : (State.stage xs s).current = s.current := rfl
@[simp] theorem State.stage_seq (xs : List Byte) (s : State) : (State.stage xs s).seq = s.seq := rfl
@[simp] theorem State.stage_result (xs : List Byte) (s : State) : (State.stage xs s).result = s.result := rfl
@[simp] theorem State.stage_cfg (xs : List Byte) (s : State) : (State.stage xs s).cfg = s.cfg := rfl
@[simp] theorem State.stage_cmdIn (xs : List Byte) (s : State) : (State.stage xs s).cmdIn = s.cmdIn := rfl
@[simp] theorem State.stage_busIn (xs : List Byte) (s : State) : (State.stage xs s).busIn = s.busIn := rfl
@[simp] theorem State.stage_delayIn (xs : List Byte) (s : State) : (State.stage xs s).delayIn = s.delayIn := rfl
@[simp] theorem State.stage_resetIn (xs : List Byte) (s : State) : (State.stage xs s).resetIn = s.resetIn := rfl
@[simp] theorem State.stage_epoch (xs : List Byte) (s : State) : (State.stage xs s).epoch = s.epoch := rfl
@[simp] theorem State.stage_trace (xs : List Byte) (s : State) : (State.stage xs s).trace = s.trace := rfl

/-! ### State.receive -/

@[simp] theorem State.receive_st (bs : List Byte) (s : State) : (State.receive bs s).st = s.st := rfl
@[simp] theorem State.receive_addr (bs : List Byte) (s : State) : (State.receive bs s).addr = s.addr := rfl
@[simp] theorem State.receive_fb (bs : List Byte) (s : State) : (State.receive bs s).fb = s.fb := rfl
@[simp] theorem State.receive_rb (bs : List Byte) (s : State) : (State.receive bs s).rb = overlay bs s.rb := rfl
@[simp] theorem State.receive_current (bs : List Byte) (s : State) : (State.receive bs s).current = s.current := rfl
@[simp] theorem State.receive_seq (bs : List Byte) (s : State) : (State.receive bs s).seq = s.seq := rfl
@[simp] theorem State.receive_result (bs : List Byte) (s : State) : (State.receive bs s).result = s.result := rfl
@[simp] theorem State.receive_cfg (bs : List Byte) (s : State) : (State.receive bs s).cfg = s.cfg := rfl
@[simp] theorem State.receive_cmdIn (bs : List Byte) (s : State) : (State.receive bs s).cmdIn = s.cmdIn := rfl
@[simp] theorem State.receive_busIn (bs : List Byte) (s : State) : (State.receive bs s).busIn = s.busIn := rfl
@[simp] theorem State.receive_delayIn (bs : List Byte) (s : State) : (State.receive bs s).delayIn = s.delayIn := rfl
@[simp] theorem State.receive_resetIn (bs : List Byte) (s : State) : (State.receive bs s).resetIn = s.resetIn := rfl
@[simp] theorem State.receive_epoch (bs : List Byte) (s : State) : (State.receive bs s).epoch = s.epoch := rfl
@[simp] theorem State.receive_trace (bs : List Byte) (s : State) : (State.receive bs s).trace = s.trace := rfl

/-! ### State.log -/

@[simp] theorem State.log_st (e : Event) (s : State) : (State.log e s).st = s.st := rfl
@[simp] theorem State.log_addr (e : Event) (s : State) : (State.log e s).addr = s.addr := rfl
@[simp] theorem State.log_fb (e : Event) (s : State) : (State.log e s).fb = s.fb := rfl
@[simp] theorem State.log_rb (e : Event) (s : State) : (State.log e s).rb = s.rb := rfl
@[simp] theorem State.log_current (e : Event) (s : State) : (State.log e s).current = s.current := rfl
@[simp] theorem State.log_seq (e : Event) (s : State) : (State.log e s).seq = s.seq := rfl
@[simp] theorem State.log_result (e : Event) (s : State) : (State.log e s).result = s.result := rfl
@[simp] theorem State.log_cfg (e : Event) (s : State) : (State.log e s).cfg = s.cfg := rfl
@[simp] theorem State.log_cmdIn (e : Event) (s : State) : (State.log e s).cmdIn = s.cmdIn := rfl
@[simp] theorem State.log_busIn (e : Event) (s : State) : (State.log e s).busIn = s.busIn := rfl
@[simp] theorem State.log_delayIn (e : Event) (s : State) : (State.log e s).delayIn = s.delayIn := rfl
@[simp] theorem State.log_resetIn (e : Event) (s : State) : (State.log e s).resetIn = s.resetIn := rfl
@[simp] theorem State.log_epoch (e : Event) (s : State) : (State.log e s).epoch = s.epoch := rfl
@[simp] theorem State.log_trace (e : Event) (s : State) : (State.log e s).trace = s.trace ++ [e] := rfl

/-! ### State.answered -/

@[simp] theorem State.answered_st (rest : List BusAnswer) (s : State) : (State.answered rest s).st = s.st := rfl
@[simp] theorem State.answered_addr (rest : List BusAnswer) (s : State) : (State.answered rest s).addr = s.addr := rfl
@[simp] theorem State.answered_fb (rest : List BusAnswer) (s : State) : (State.answered rest s).fb = s.fb := rfl
@[simp] theorem State.answered_rb (rest : List BusAnswer) (s : State) : (State.answered rest s).rb = s.rb := rfl
@[simp] theorem State.answered_current (rest : List BusAnswer) (s : State) : (State.answered rest s).current = s.current := rfl
@[simp] theorem State.answered_seq (rest : List BusAnswer) (s : State) : (State.answered rest s).seq = s.seq := rfl
@[simp] theorem State.answered_result (rest : List BusAnswer) (s : State) : (State.answered rest s).result = s.result := rfl
@[simp] theorem State.answered_cfg (rest : List BusAnswer) (s : State) : (State.answered rest s).cfg = s.cfg := rfl
@[simp] theorem State.answered_cmdIn (rest : List BusAnswer) (s : State) : (State.answered rest s).cmdIn = s.cmdIn := rfl
@[simp] theorem State.answered_busIn (rest : List BusAnswer) (s : State) : (State.answered rest s).busIn = rest := rfl
@[simp] theorem State.answered_delayIn (rest : List BusAnswer) (s : State) : (State.answered rest s).delayIn = s.delayIn := rfl
@[simp] theorem State.answered_resetIn (rest : List BusAnswer) (s : State) : (State.answered rest s).resetIn = s.resetIn := rfl
@[simp] theorem State.answered_epoch (rest : List BusAnswer) (s : State) : (State.answered rest s).epoch = s.epoch := rfl
@[simp] theorem State.answered_trace (rest : List BusAnswer) (s : State) : (State.answered rest s).trace = s.trace := rfl

/-! ### State.elapsed -/

@[simp] theorem State.elapsed_st (k : Nat) (s : State) : (State.elapsed k s).st = s.st := rfl
@[simp] theorem State.elapsed_addr (k : Nat) (s : State) : (State.elapsed k s).addr = s.addr := rfl
@[simp] theorem State.elapsed_fb (k : Nat) (s : State) : (State.elapsed k s).fb = s.fb := rfl
@[simp] theorem State.elapsed_rb (k : Nat) (s : State) : (State.elapsed k s).rb = s.rb := rfl
@[simp] theorem State.elapsed_current (k : Nat) (s : State) : (State.elapsed k s).current = s.current := rfl
@[simp] theorem State.elapsed_seq (k : Nat) (s : State) : (State.elapsed k s).seq = s.seq := rfl
@[simp] theorem State.elapsed_result (k : Nat) (s : State) : (State.elapsed k s).result = s.result := rfl
@[simp] theorem State.elapsed_cfg (k : Nat) (s : State) : (State.elapsed k s).cfg = s.cfg := rfl
@[simp] theorem State.elapsed_cmdIn (k : Nat) (s : State) : (State.elapsed k s).cmdIn = s.cmdIn := rfl
@[simp] theorem State.elapsed_busIn (k : Nat) (s : State) : (State.elapsed k s).busIn = s.busIn := rfl
@[simp] theorem State.elapsed_delayIn (k : Nat) (s : State) : (State.elapsed k s).delayIn = k := rfl
@[simp] theorem State.elapsed_resetIn (k : Nat) (s : State) : (State.elapsed k s).resetIn = s.resetIn := rfl
@[simp] theorem State.elapsed_epoch (k : Nat) (s : State) : (State.elapsed k s).epoch = s.epoch := rfl
@[simp] theorem State.elapsed_trace (k : Nat) (s : State) : (State.elapsed k s).trace = s.trace := rfl

/-! ### State.advance -/

@[simp] theorem State.advance_st (s : State) : (State.advance s).st = s.st := rfl
@[simp] theorem State.advance_addr (s : State) : (State.advance s).addr = s.addr := rfl
@[simp] theorem State.advance_fb (s : State) : (State.advance s).fb = s.fb := rfl
@[simp] theorem State.advance_rb (s : State) : (State.advance s).rb = s.rb := rfl
@[simp] theorem State.advance_current (s : State) : (State.advance s).current = s.current := rfl
@[simp] theorem State.advance_seq (s : State) : (State.advance s).seq = s.seq + 1 := rfl
@[simp] theorem State.advance_result (s : State) : (State.advance s).result = s.result := rfl
@[simp] theorem State.advance_cfg (s : State) : (State.advance s).cfg = s.cfg := rfl
@[simp] theorem State.advance_cmdIn (s : State) : (State.advance s).cmdIn = s.cmdIn := rfl
@[simp] theorem State.advance_busIn (s : State) : (State.advance s).busIn = s.busIn := rfl
@[simp] theorem State.advance_delayIn (s : State) : (State.advance s).delayIn = s.delayIn := rfl
@[simp] theorem State.advance_resetIn (s : State) : (State.advance s).resetIn = s.resetIn := rfl
@[simp] theorem State.advance_epoch (s : State) : (State.advance s).epoch = s.epoch := rfl
@[simp] theorem State.advance_trace (s : State) : (State.advance s).trace = s.trace := rfl

/-! ### State.accept -/

@[simp] theorem State.accept_st (i : Instr) (s : State) : (State.accept i s).st = s.st := rfl
@[simp] theorem State.accept_addr (i : Instr) (s : State) : (State.accept i s).addr = s.addr := rfl
@[simp] theorem State.accept_fb (i : Instr) (s : State) : (State.accept i s).fb = s.fb := rfl
@[simp] theorem State.accept_rb (i : Instr) (s : State) : (State.accept i s).rb = s.rb := rfl
@[simp] theorem State.accept_current (i : Instr) (s : State) : (State.accept i s).current = some i := rfl
@[simp] theorem State.accept_seq (i : Instr) (s : State) : (State.accept i s).seq = 0 := rfl
@[simp] theorem State.accept_result (i : Instr) (s : State) : (State.accept i s).result = s.result := rfl
@[simp] theorem State.accept_cfg (i : Instr) (s : State) : (State.accept i s).cfg = s.cfg := rfl
@[simp] theorem State.accept_cmdIn (i : Instr) (s : State) : (State.accept i s).cmdIn = s.cmdIn := rfl
@[simp] theorem State.accept_busIn (i : Instr) (s : State) : (State.accept i s).busIn = s.busIn := rfl
@[simp] theorem State.accept_delayIn (i : Instr) (s : State) : (State.accept i s).delayIn = s.delayIn := rfl
@[simp] theorem State.accept_resetIn (i : Instr) (s : State) : (State.accept i s).resetIn = s.resetIn := rfl
@[simp] theorem State.accept_epoch (i : Instr) (s : State) : (State.accept i s).epoch = s.epoch := rfl
@[simp] theorem State.accept_trace (i : Instr) (s : State) : (State.accept i s).trace = s.trace := rfl

/-! ### State.finish -/

@[simp] theorem State.finish_st (r : Result) (s : State) : (State.finish r s).st = s.st := rfl
@[simp] theorem State.finish_addr (r : Result) (s : State) : (State.finish r s).addr = s.addr := rfl
@[simp] theorem State.finish_fb (r : Result) (s : State) : (State.finish r s).fb = s.fb := rfl
@[simp] theorem State.finish_rb (r : Result) (s : State) : (State.finish r s).rb = s.rb := rfl
@[simp] theorem State.finish_current (r : Result) (s : State) : (State.finish r s).current = none := rfl
@[simp] theorem State.finish_seq (r : Result) (s : State) : (State.finish r s).seq = 0 := rfl
@[simp] theorem State.finish_result (r : Result) (s : State) : (State.finish r s).result = some r := rfl
@[simp] theorem State.finish_cfg (r : Result) (s : State) : (State.finish r s).cfg = s.cfg := rfl
@[simp] theorem State.finish_cmdIn (r : Result) (s : State) : (State.finish r s).cmdIn = s.cmdIn := rfl
@[simp] theorem State.finish_busIn (r : Result) (s : State) : (State.finish r s).busIn = s.busIn := rfl
@[simp] theorem State.finish_delayIn (r : Result) (s : State) : (State.finish r s).delayIn = s.delayIn := rfl
@[simp] theorem State.finish_resetIn (r : Result) (s : State) : (State.finish r s).resetIn = s.resetIn := rfl
@[simp] theorem State.finish_epoch (r : Result) (s : State) : (State.finish r s).epoch = s.epoch := rfl
@[simp] theorem State.finish_trace (r : Result) (s : State) : (State.finish r s).trace = s.trace := rfl

/-! ### State.raise -/

@[simp] theorem State.raise_st (k : ErrKind) (s : State) : (State.raise k s).st = if k.failFast then .faulted else s.st := rfl
@[simp] theorem State.raise_addr (k : ErrKind) (s : State) : (State.raise k s).addr = s.addr := rfl
@[simp] theorem State.raise_fb (k : ErrKind) (s : State) : (State.raise k s).fb = s.fb := rfl
@[simp] theorem State.raise_rb (k : ErrKind) (s : State) : (State.raise k s).rb = s.rb := rfl
@[simp] theorem State.raise_current (k : ErrKind) (s : State) : (State.raise k s).current = none := rfl
@[simp] theorem State.raise_seq (k : ErrKind) (s : State) : (State.raise k s).seq = 0 := rfl
@[simp] theorem State.raise_result (k : ErrKind) (s : State) : (State.raise k s).result = some (.err k) := rfl
@[simp] theorem State.raise_cfg (k : ErrKind) (s : State) : (State.raise k s).cfg = s.cfg := rfl
@[simp] theorem State.raise_cmdIn (k : ErrKind) (s : State) : (State.raise k s).cmdIn = s.cmdIn := rfl
@[simp] theorem State.raise_busIn (k : ErrKind) (s : State) : (State.raise k s).busIn = s.busIn := rfl
@[simp] theorem State.raise_delayIn (k : ErrKind) (s : State) : (State.raise k s).delayIn = s.delayIn := rfl
@[simp] theorem State.raise_resetIn (k : ErrKind) (s : State) : (State.raise k s).resetIn = s.resetIn := rfl
@[simp] theorem State.raise_epoch (k : ErrKind) (s : State) : (State.raise k s).epoch = s.epoch := rfl
@[simp] theorem State.raise_trace (k : ErrKind) (s : State) : (State.raise k s).trace = s.trace := rfl

/-! ### State.applyReset -/

@[simp] theorem State.applyReset_st (s : State) : (State.applyReset s).st = .uninitialized := rfl
@[simp] theorem State.applyReset_addr (s : State) : (State.applyReset s).addr = Config.freeAddr s.epoch := rfl
@[simp] theorem State.applyReset_fb (s : State) : (State.applyReset s).fb = Config.freeFrameBuf s.epoch := rfl
@[simp] theorem State.applyReset_rb (s : State) : (State.applyReset s).rb = Config.freeReadBuf s.epoch := rfl
@[simp] theorem State.applyReset_current (s : State) : (State.applyReset s).current = none := rfl
@[simp] theorem State.applyReset_seq (s : State) : (State.applyReset s).seq = 0 := rfl
@[simp] theorem State.applyReset_result (s : State) : (State.applyReset s).result = none := rfl
@[simp] theorem State.applyReset_cfg (s : State) : (State.applyReset s).cfg = s.cfg := rfl
@[simp] theorem State.applyReset_cmdIn (s : State) : (State.applyReset s).cmdIn = s.cmdIn := rfl
@[simp] theorem State.applyReset_busIn (s : State) : (State.applyReset s).busIn = s.busIn := rfl
@[simp] theorem State.applyReset_delayIn (s : State) : (State.applyReset s).delayIn = s.delayIn := rfl
@[simp] theorem State.applyReset_resetIn (s : State) : (State.applyReset s).resetIn = false := rfl
@[simp] theorem State.applyReset_epoch (s : State) : (State.applyReset s).epoch = s.epoch + 1 := rfl
@[simp] theorem State.applyReset_trace (s : State) : (State.applyReset s).trace = s.trace := rfl

/-! ### State.offer -/

@[simp] theorem State.offer_st (p : Packet) (s : State) : (State.offer p s).st = s.st := rfl
@[simp] theorem State.offer_addr (p : Packet) (s : State) : (State.offer p s).addr = s.addr := rfl
@[simp] theorem State.offer_fb (p : Packet) (s : State) : (State.offer p s).fb = s.fb := rfl
@[simp] theorem State.offer_rb (p : Packet) (s : State) : (State.offer p s).rb = s.rb := rfl
@[simp] theorem State.offer_current (p : Packet) (s : State) : (State.offer p s).current = none := rfl
@[simp] theorem State.offer_seq (p : Packet) (s : State) : (State.offer p s).seq = 0 := rfl
@[simp] theorem State.offer_result (p : Packet) (s : State) : (State.offer p s).result = s.result := rfl
@[simp] theorem State.offer_cfg (p : Packet) (s : State) : (State.offer p s).cfg = s.cfg := rfl
@[simp] theorem State.offer_cmdIn (p : Packet) (s : State) : (State.offer p s).cmdIn = p :: s.cmdIn := rfl
@[simp] theorem State.offer_busIn (p : Packet) (s : State) : (State.offer p s).busIn = s.busIn := rfl
@[simp] theorem State.offer_delayIn (p : Packet) (s : State) : (State.offer p s).delayIn = s.delayIn := rfl
@[simp] theorem State.offer_resetIn (p : Packet) (s : State) : (State.offer p s).resetIn = false := rfl
@[simp] theorem State.offer_epoch (p : Packet) (s : State) : (State.offer p s).epoch = s.epoch := rfl
@[simp] theorem State.offer_trace (p : Packet) (s : State) : (State.offer p s).trace = s.trace := rfl

/-! ### newPrepare -/

@[simp] theorem newPrepare_st (a : DevAddr) (s : State) : (newPrepare a s).st = s.st := rfl
@[simp] theorem newPrepare_addr (a : DevAddr) (s : State) : (newPrepare a s).addr = a := rfl
@[simp] theorem newPrepare_fb (a : DevAddr) (s : State) : (newPrepare a s).fb = s.fb := rfl
@[simp] theorem newPrepare_rb (a : DevAddr) (s : State) : (newPrepare a s).rb = s.rb := rfl
@[simp] theorem newPrepare_current (a : DevAddr) (s : State) : (newPrepare a s).current = s.current := rfl
@[simp] theorem newPrepare_seq (a : DevAddr) (s : State) : (newPrepare a s).seq = s.seq := rfl
@[simp] theorem newPrepare_result (a : DevAddr) (s : State) : (newPrepare a s).result = s.result := rfl
@[simp] theorem newPrepare_cfg (a : DevAddr) (s : State) : (newPrepare a s).cfg = s.cfg := rfl
@[simp] theorem newPrepare_cmdIn (a : DevAddr) (s : State) : (newPrepare a s).cmdIn = s.cmdIn := rfl
@[simp] theorem newPrepare_busIn (a : DevAddr) (s : State) : (newPrepare a s).busIn = s.busIn := rfl
@[simp] theorem newPrepare_delayIn (a : DevAddr) (s : State) : (newPrepare a s).delayIn = s.delayIn := rfl
@[simp] theorem newPrepare_resetIn (a : DevAddr) (s : State) : (newPrepare a s).resetIn = s.resetIn := rfl
@[simp] theorem newPrepare_epoch (a : DevAddr) (s : State) : (newPrepare a s).epoch = s.epoch := rfl
@[simp] theorem newPrepare_trace (a : DevAddr) (s : State) : (newPrepare a s).trace = s.trace := rfl

/-! ### newFinish -/

@[simp] theorem newFinish_st (s : State) : (newFinish s).st = .ready := rfl
@[simp] theorem newFinish_addr (s : State) : (newFinish s).addr = s.addr := rfl
@[simp] theorem newFinish_fb (s : State) : (newFinish s).fb = s.fb := rfl
@[simp] theorem newFinish_rb (s : State) : (newFinish s).rb = s.rb := rfl
@[simp] theorem newFinish_current (s : State) : (newFinish s).current = none := rfl
@[simp] theorem newFinish_seq (s : State) : (newFinish s).seq = 0 := rfl
@[simp] theorem newFinish_result (s : State) : (newFinish s).result = some (.ok .unit) := rfl
@[simp] theorem newFinish_cfg (s : State) : (newFinish s).cfg = s.cfg := rfl
@[simp] theorem newFinish_cmdIn (s : State) : (newFinish s).cmdIn = s.cmdIn := rfl
@[simp] theorem newFinish_busIn (s : State) : (newFinish s).busIn = s.busIn := rfl
@[simp] theorem newFinish_delayIn (s : State) : (newFinish s).delayIn = s.delayIn := rfl
@[simp] theorem newFinish_resetIn (s : State) : (newFinish s).resetIn = s.resetIn := rfl
@[simp] theorem newFinish_epoch (s : State) : (newFinish s).epoch = s.epoch := rfl
@[simp] theorem newFinish_trace (s : State) : (newFinish s).trace = s.trace := rfl

/-! ### finishUnit -/

@[simp] theorem finishUnit_st (s : State) : (finishUnit s).st = s.st := rfl
@[simp] theorem finishUnit_addr (s : State) : (finishUnit s).addr = s.addr := rfl
@[simp] theorem finishUnit_fb (s : State) : (finishUnit s).fb = s.fb := rfl
@[simp] theorem finishUnit_rb (s : State) : (finishUnit s).rb = s.rb := rfl
@[simp] theorem finishUnit_current (s : State) : (finishUnit s).current = none := rfl
@[simp] theorem finishUnit_seq (s : State) : (finishUnit s).seq = 0 := rfl
@[simp] theorem finishUnit_result (s : State) : (finishUnit s).result = some (.ok .unit) := rfl
@[simp] theorem finishUnit_cfg (s : State) : (finishUnit s).cfg = s.cfg := rfl
@[simp] theorem finishUnit_cmdIn (s : State) : (finishUnit s).cmdIn = s.cmdIn := rfl
@[simp] theorem finishUnit_busIn (s : State) : (finishUnit s).busIn = s.busIn := rfl
@[simp] theorem finishUnit_delayIn (s : State) : (finishUnit s).delayIn = s.delayIn := rfl
@[simp] theorem finishUnit_resetIn (s : State) : (finishUnit s).resetIn = s.resetIn := rfl
@[simp] theorem finishUnit_epoch (s : State) : (finishUnit s).epoch = s.epoch := rfl
@[simp] theorem finishUnit_trace (s : State) : (finishUnit s).trace = s.trace := rfl

/-! ### finishByte -/

@[simp] theorem finishByte_st (s : State) : (finishByte s).st = s.st := rfl
@[simp] theorem finishByte_addr (s : State) : (finishByte s).addr = s.addr := rfl
@[simp] theorem finishByte_fb (s : State) : (finishByte s).fb = s.fb := rfl
@[simp] theorem finishByte_rb (s : State) : (finishByte s).rb = s.rb := rfl
@[simp] theorem finishByte_current (s : State) : (finishByte s).current = none := rfl
@[simp] theorem finishByte_seq (s : State) : (finishByte s).seq = 0 := rfl
@[simp] theorem finishByte_result (s : State) : (finishByte s).result = some (.ok (.byte s.rb[0])) := rfl
@[simp] theorem finishByte_cfg (s : State) : (finishByte s).cfg = s.cfg := rfl
@[simp] theorem finishByte_cmdIn (s : State) : (finishByte s).cmdIn = s.cmdIn := rfl
@[simp] theorem finishByte_busIn (s : State) : (finishByte s).busIn = s.busIn := rfl
@[simp] theorem finishByte_delayIn (s : State) : (finishByte s).delayIn = s.delayIn := rfl
@[simp] theorem finishByte_resetIn (s : State) : (finishByte s).resetIn = s.resetIn := rfl
@[simp] theorem finishByte_epoch (s : State) : (finishByte s).epoch = s.epoch := rfl
@[simp] theorem finishByte_trace (s : State) : (finishByte s).trace = s.trace := rfl

/-! ### finishRead -/

@[simp] theorem finishRead_st (n : Nat) (s : State) : (finishRead n s).st = s.st := rfl
@[simp] theorem finishRead_addr (n : Nat) (s : State) : (finishRead n s).addr = s.addr := rfl
@[simp] theorem finishRead_fb (n : Nat) (s : State) : (finishRead n s).fb = s.fb := rfl
@[simp] theorem finishRead_rb (n : Nat) (s : State) : (finishRead n s).rb = s.rb := rfl
@[simp] theorem finishRead_current (n : Nat) (s : State) : (finishRead n s).current = none := rfl
@[simp] theorem finishRead_seq (n : Nat) (s : State) : (finishRead n s).seq = 0 := rfl
@[simp] theorem finishRead_result (n : Nat) (s : State) : (finishRead n s).result = some (.ok (.bytes (s.received n))) := rfl
@[simp] theorem finishRead_cfg (n : Nat) (s : State) : (finishRead n s).cfg = s.cfg := rfl
@[simp] theorem finishRead_cmdIn (n : Nat) (s : State) : (finishRead n s).cmdIn = s.cmdIn := rfl
@[simp] theorem finishRead_busIn (n : Nat) (s : State) : (finishRead n s).busIn = s.busIn := rfl
@[simp] theorem finishRead_delayIn (n : Nat) (s : State) : (finishRead n s).delayIn = s.delayIn := rfl
@[simp] theorem finishRead_resetIn (n : Nat) (s : State) : (finishRead n s).resetIn = s.resetIn := rfl
@[simp] theorem finishRead_epoch (n : Nat) (s : State) : (finishRead n s).epoch = s.epoch := rfl
@[simp] theorem finishRead_trace (n : Nat) (s : State) : (finishRead n s).trace = s.trace := rfl

/-! ### finishIdentity -/

@[simp] theorem finishIdentity_st (s : State) : (finishIdentity s).st = s.st := rfl
@[simp] theorem finishIdentity_addr (s : State) : (finishIdentity s).addr = s.addr := rfl
@[simp] theorem finishIdentity_fb (s : State) : (finishIdentity s).fb = s.fb := rfl
@[simp] theorem finishIdentity_rb (s : State) : (finishIdentity s).rb = s.rb := rfl
@[simp] theorem finishIdentity_current (s : State) : (finishIdentity s).current = none := rfl
@[simp] theorem finishIdentity_seq (s : State) : (finishIdentity s).seq = 0 := rfl
@[simp] theorem finishIdentity_result (s : State) : (finishIdentity s).result = some (.ok (.identity s.rb[0] (decide (s.rb[0] = s.cfg.hwIdCode)))) := rfl
@[simp] theorem finishIdentity_cfg (s : State) : (finishIdentity s).cfg = s.cfg := rfl
@[simp] theorem finishIdentity_cmdIn (s : State) : (finishIdentity s).cmdIn = s.cmdIn := rfl
@[simp] theorem finishIdentity_busIn (s : State) : (finishIdentity s).busIn = s.busIn := rfl
@[simp] theorem finishIdentity_delayIn (s : State) : (finishIdentity s).delayIn = s.delayIn := rfl
@[simp] theorem finishIdentity_resetIn (s : State) : (finishIdentity s).resetIn = s.resetIn := rfl
@[simp] theorem finishIdentity_epoch (s : State) : (finishIdentity s).epoch = s.epoch := rfl
@[simp] theorem finishIdentity_trace (s : State) : (finishIdentity s).trace = s.trace := rfl

/-! ### finishColor -/

@[simp] theorem finishColor_st (r g b : Byte) (s : State) : (finishColor r g b s).st = s.st := rfl
@[simp] theorem finishColor_addr (r g b : Byte) (s : State) : (finishColor r g b s).addr = s.addr := rfl
@[simp] theorem finishColor_fb (r g b : Byte) (s : State) : (finishColor r g b s).fb = s.fb := rfl
@[simp] theorem finishColor_rb (r g b : Byte) (s : State) : (finishColor r g b s).rb = s.rb := rfl
@[simp] theorem finishColor_current (r g b : Byte) (s : State) : (finishColor r g b s).current = none := rfl
@[simp] theorem finishColor_seq (r g b : Byte) (s : State) : (finishColor r g b s).seq = 0 := rfl
@[simp] theorem finishColor_result (r g b : Byte) (s : State) : (finishColor r g b s).result = some (.ok (.bytes (colorToWire r g b))) := rfl
@[simp] theorem finishColor_cfg (r g b : Byte) (s : State) : (finishColor r g b s).cfg = s.cfg := rfl
@[simp] theorem finishColor_cmdIn (r g b : Byte) (s : State) : (finishColor r g b s).cmdIn = s.cmdIn := rfl
@[simp] theorem finishColor_busIn (r g b : Byte) (s : State) : (finishColor r g b s).busIn = s.busIn := rfl
@[simp] theorem finishColor_delayIn (r g b : Byte) (s : State) : (finishColor r g b s).delayIn = s.delayIn := rfl
@[simp] theorem finishColor_resetIn (r g b : Byte) (s : State) : (finishColor r g b s).resetIn = s.resetIn := rfl
@[simp] theorem finishColor_epoch (r g b : Byte) (s : State) : (finishColor r g b s).epoch = s.epoch := rfl
@[simp] theorem finishColor_trace (r g b : Byte) (s : State) : (finishColor r g b s).trace = s.trace := rfl

/-! ### State.conclude -/

@[simp] theorem State.conclude_ok (v : Value) (s : State) : State.conclude (.ok v) s = s.finish (.ok v) := rfl
@[simp] theorem State.conclude_error (k : ErrKind) (s : State) : State.conclude (.error k) s = s.raise k := rfl

@[simp] theorem State.conclude_addr (r : Except ErrKind Value) (s : State) : (State.conclude r s).addr = s.addr := by
  cases r <;> rfl
@[simp] theorem State.conclude_fb (r : Except ErrKind Value) (s : State) : (State.conclude r s).fb = s.fb := by
  cases r <;> rfl
@[simp] theorem State.conclude_rb (r : Except ErrKind Value) (s : State) : (State.conclude r s).rb = s.rb := by
  cases r <;> rfl
@[simp] theorem State.conclude_cfg (r : Except ErrKind Value) (s : State) : (State.conclude r s).cfg = s.cfg := by
  cases r <;> rfl
@[simp] theorem State.conclude_cmdIn (r : Except ErrKind Value) (s : State) : (State.conclude r s).cmdIn = s.cmdIn := by
  cases r <;> rfl
@[simp] theorem State.conclude_busIn (r : Except ErrKind Value) (s : State) : (State.conclude r s).busIn = s.busIn := by
  cases r <;> rfl
@[simp] theorem State.conclude_delayIn (r : Except ErrKind Value) (s : State) : (State.conclude r s).delayIn = s.delayIn := by
  cases r <;> rfl
@[simp] theorem State.conclude_resetIn (r : Except ErrKind Value) (s : State) : (State.conclude r s).resetIn = s.resetIn := by
  cases r <;> rfl
@[simp] theorem State.conclude_epoch (r : Except ErrKind Value) (s : State) : (State.conclude r s).epoch = s.epoch := by
  cases r <;> rfl
@[simp] theorem State.conclude_trace (r : Except ErrKind Value) (s : State) : (State.conclude r s).trace = s.trace := by
  cases r <;> rfl
@[simp] theorem State.conclude_current (r : Except ErrKind Value) (s : State) : (State.conclude r s).current = none := by
  cases r <;> rfl
@[simp] theorem State.conclude_seq (r : Except ErrKind Value) (s : State) : (State.conclude r s).seq = 0 := by
  cases r <;> rfl

end Sys2Proof.Machine
end

