-- ==== Sys2Proof/Laws/Ops.lean ====
section
/-! SUPPORT. What the shared operations can do, said once: the staging buffers, one act, the run of a body, the start
of an operation. Proofs about instructions cite these and do not unfold the operations. -/

namespace Sys2Proof.Machine

/-! ### Staging buffers -/

theorem overlayList_take (xs ys : List Byte) (h : xs.length ≤ ys.length) :
    (overlayList xs ys).take xs.length = xs := by
  induction xs generalizing ys with
  | nil => simp
  | cons x xs ih =>
    cases ys with
    | nil => simp at h
    | cons y ys => simp [overlayList, ih ys (by simpa using h)]

theorem overlayList_idem (xs ys : List Byte) : overlayList xs (overlayList xs ys) = overlayList xs ys := by
  induction xs generalizing ys with
  | nil => rfl
  | cons x xs ih =>
    cases ys with
    | nil => rfl
    | cons y ys => simp [overlayList, ih]

theorem overlay_toList {n : Nat} (xs : List Byte) (v : Vector Byte n) :
    (overlay xs v).toList = overlayList xs v.toList := by
  simp [overlay]

theorem overlay_take {n : Nat} (xs : List Byte) (v : Vector Byte n) (h : xs.length ≤ n) :
    (overlay xs v).toList.take xs.length = xs := by
  rw [overlay_toList]; exact overlayList_take xs v.toList (by simpa using h)

theorem overlay_idem {n : Nat} (xs : List Byte) (v : Vector Byte n) : overlay xs (overlay xs v) = overlay xs v := by
  apply Vector.toList_inj.1
  simp only [overlay_toList, overlayList_idem]

theorem overlayList_absorb (xs ys zs : List Byte) (h : ys.length ≤ xs.length) :
    overlayList xs (overlayList ys zs) = overlayList xs zs := by
  induction xs generalizing ys zs with
  | nil => simp [List.length_eq_zero_iff.1 (Nat.le_zero.1 h), overlayList]
  | cons x xs ih =>
    cases ys with
    | nil => rfl
    | cons y ys =>
      cases zs with
      | nil => rfl
      | cons z zs => simp [overlayList, ih ys zs (by simpa using h)]

/-- A longer frame leaves nothing of a shorter one before it. -/
theorem overlay_absorb {n : Nat} (xs ys : List Byte) (v : Vector Byte n) (h : ys.length ≤ xs.length) :
    overlay xs (overlay ys v) = overlay xs v := by
  apply Vector.toList_inj.1
  simp only [overlay_toList, overlayList_absorb xs ys v.toList h]

/-- What is staged is what is sent, for every frame that fits the buffer. -/
theorem frame_stage (xs : List Byte) (s : State) (h : xs.length ≤ 34) : (s.stage xs).frame xs.length = xs :=
  overlay_take xs s.fb h

/-- What is received is what is returned, for every read that fits the buffer. -/
theorem received_overlay (bs : List Byte) (s : State) (h : bs.length ≤ 32) :
    (s.receive bs).received bs.length = bs :=
  overlay_take bs s.rb h

theorem stage_idem (xs : List Byte) (s : State) : (s.stage xs).stage xs = s.stage xs := by
  simp [State.stage, overlay_idem]

/-- The first byte of a buffer after a nonempty list was written to it. -/
theorem overlay_head {n : Nat} (b : Byte) (bs : List Byte) (v : Vector Byte (n + 1)) :
    (overlay (b :: bs) v)[0] = b := by
  have h : (overlay (b :: bs) v).toList[0]? = some b := by
    rw [overlay_toList]
    cases hv : v.toList with
    | nil => simp at hv
    | cons y ys => simp [overlayList]
  simpa using h

/-! ### One act -/

/-- The lengths of an act fit the staging buffers (43_register_protocol.md R161). -/
def Act.Fits : Act → Prop
  | .tw _ _ p => p.length < 32
  | .tr n _ => n ≤ 32
  | .twr _ _ n => n ≤ 32
  | .dly _ => True
  | .raise _ => True

/-- What an act that goes on leaves: one event more, answered `Ok`; `seq` one further; answers only taken; nothing
else but the staging buffers. -/
structure Goes (a : Act) (s t : State) : Prop where
  st : t.st = s.st
  addr : t.addr = s.addr
  current : t.current = s.current
  seq : t.seq = s.seq + 1
  result : t.result = s.result
  cfg : t.cfg = s.cfg
  cmdIn : t.cmdIn = s.cmdIn
  busIn : t.busIn <:+ s.busIn
  delayIn : t.delayIn ≤ s.delayIn
  resetIn : t.resetIn = s.resetIn
  epoch : t.epoch = s.epoch
  trace : ∃ e, t.trace = s.trace ++ [e] ∧ Event.isOkOf s.addr a e = true

/-- What an act that raises or waits leaves of the state: the trace grows by `es`. -/
structure Stops (es : List Event) (s t : State) : Prop where
  st : t.st = s.st
  addr : t.addr = s.addr
  current : t.current = s.current
  seq : t.seq = s.seq
  result : t.result = s.result
  cfg : t.cfg = s.cfg
  cmdIn : t.cmdIn = s.cmdIn
  busIn : t.busIn <:+ s.busIn
  delayIn : t.delayIn = s.delayIn
  resetIn : t.resetIn = s.resetIn
  epoch : t.epoch = s.epoch
  trace : t.trace = s.trace ++ es

theorem take_toList_length (d : Vector Byte 32) (n : Nat) (h : n ≤ 32) : (d.toList.take n).length = n := by
  simp; omega

theorem frame_stage_write (m r : Byte) (p : List Byte) (s : State) (h : p.length < 32) :
    (s.stage (m :: r :: p)).frame (p.length + 2) = m :: r :: p :=
  frame_stage (m :: r :: p) s (by simp; omega)

theorem frame_stage_address (m r : Byte) (s : State) : (s.stage [m, r]).frame 2 = [m, r] :=
  frame_stage [m, r] s (by simp)

/-! One lemma per act and answer. -/

theorem perform_tw_ok (m r : Byte) (p : List Byte) (s : State) (d : Vector Byte 32) (rest : List BusAnswer)
    (hp : p.length < 32) (h : s.busIn = .ok d :: rest) :
    perform (.tw m r p) s =
      .done (((((s.stage (m :: r :: p)).answered rest).log (.tw s.addr (m :: r :: p) .ok))).advance) := by
  simp [perform, h, frame_stage_write m r p s hp]

theorem perform_tw_err (m r : Byte) (p : List Byte) (s : State) (e : TransportError) (rest : List BusAnswer)
    (hp : p.length < 32) (h : s.busIn = .err e :: rest) :
    perform (.tw m r p) s =
      .raised (.writeFault e) (((s.stage (m :: r :: p)).answered rest).log (.tw s.addr (m :: r :: p) (.err e))) := by
  simp [perform, h, frame_stage_write m r p s hp]

theorem perform_tw_wait (m r : Byte) (p : List Byte) (s : State) (h : s.busIn = []) :
    perform (.tw m r p) s = .waiting (s.stage (m :: r :: p)) := by
  simp [perform, h]

theorem perform_tr_ok (n : Nat) (expect : Option Byte) (s : State) (d : Vector Byte 32) (rest : List BusAnswer)
    (h : s.busIn = .ok d :: rest) :
    perform (.tr n expect) s =
      compareIdentity expect (d.toList.take n)
        (((s.answered rest).receive (d.toList.take n)).log (.tr s.addr n (.ok (d.toList.take n)))) := by
  simp [perform, h]

theorem perform_tr_err (n : Nat) (expect : Option Byte) (s : State) (e : TransportError) (rest : List BusAnswer)
    (h : s.busIn = .err e :: rest) :
    perform (.tr n expect) s = .raised (.readFault e) ((s.answered rest).log (.tr s.addr n (.err e))) := by
  simp [perform, h]

theorem perform_tr_wait (n : Nat) (expect : Option Byte) (s : State) (h : s.busIn = []) :
    perform (.tr n expect) s = .waiting s := by
  simp [perform, h]

theorem perform_twr_ok (m r : Byte) (n : Nat) (s : State) (d : Vector Byte 32) (rest : List BusAnswer)
    (h : s.busIn = .ok d :: rest) :
    perform (.twr m r n) s =
      .done (((((s.stage [m, r]).answered rest).receive (d.toList.take n)).log
        (.twr s.addr [m, r] n (.ok (d.toList.take n)))).advance) := by
  simp [perform, h, frame_stage_address m r s]

theorem perform_twr_err (m r : Byte) (n : Nat) (s : State) (e : TransportError) (rest : List BusAnswer)
    (h : s.busIn = .err e :: rest) :
    perform (.twr m r n) s =
      .raised (.readFault e) (((s.stage [m, r]).answered rest).log (.twr s.addr [m, r] n (.err e))) := by
  simp [perform, h, frame_stage_address m r s]

theorem perform_twr_wait (m r : Byte) (n : Nat) (s : State) (h : s.busIn = []) :
    perform (.twr m r n) s = .waiting (s.stage [m, r]) := by
  simp [perform, h]

theorem perform_dly_done (ms : BitVec 32) (s : State) (k : Nat) (h : s.delayIn = k + 1) :
    perform (.dly ms) s = .done (((s.elapsed k).log (.dly ms)).advance) := by
  simp [perform, h]

theorem perform_dly_wait (ms : BitVec 32) (s : State) (h : s.delayIn = 0) : perform (.dly ms) s = .waiting s := by
  simp [perform, h]

theorem perform_raise (k : ErrKind) (s : State) : perform (.raise k) s = .raised k s := rfl

/-- Everything an act that goes on can do. -/
theorem perform_done {a : Act} {s t : State} (hf : a.Fits) (h : perform a s = .done t) : Goes a s t := by
  cases a with
  | tw m r p =>
    cases hb : s.busIn with
    | nil => simp [perform_tw_wait m r p s hb] at h
    | cons x rest =>
      cases x with
      | err e => simp [perform_tw_err m r p s e rest hf hb] at h
      | ok d =>
        rw [perform_tw_ok m r p s d rest hf hb, Verdict.done.injEq] at h
        subst h
        constructor <;> simp [hb, Event.isOkOf]
  | tr n expect =>
    cases hb : s.busIn with
    | nil => simp [perform_tr_wait n expect s hb] at h
    | cons x rest =>
      cases x with
      | err e => simp [perform_tr_err n expect s e rest hb] at h
      | ok d =>
        rw [perform_tr_ok n expect s d rest hb] at h
        have hl := take_toList_length d n hf
        cases expect with
        | none =>
          simp only [compareIdentity, Verdict.done.injEq] at h
          subst h
          constructor <;> simp [hb, Event.isOkOf]
          exact hf
        | some id =>
          simp only [compareIdentity] at h
          split at h
          · rename_i hid
            rw [Verdict.done.injEq] at h
            subst h
            constructor <;> simp [hb, Event.isOkOf, hid]
          · simp at h
  | twr m r n =>
    cases hb : s.busIn with
    | nil => simp [perform_twr_wait m r n s hb] at h
    | cons x rest =>
      cases x with
      | err e => simp [perform_twr_err m r n s e rest hb] at h
      | ok d =>
        rw [perform_twr_ok m r n s d rest hb, Verdict.done.injEq] at h
        subst h
        have hl := take_toList_length d n hf
        constructor <;> simp [hb, Event.isOkOf]
        exact hf
  | dly ms =>
    cases hd : s.delayIn with
    | zero => simp [perform_dly_wait ms s hd] at h
    | succ k =>
      rw [perform_dly_done ms s k hd, Verdict.done.injEq] at h
      subst h
      constructor <;> simp [hd, Event.isOkOf]
  | raise k => simp [perform] at h

/-- Everything an act that raises can do: its kind is the one of its request and answer, and its event, if it made a
request, is the last of the trace. -/
theorem perform_raised {a : Act} {s t : State} {k : ErrKind} (hf : a.Fits) (h : perform a s = .raised k t) :
    ∃ es, Stops es s t ∧
      ((∃ m r p e, a = .tw m r p ∧ k = .writeFault e ∧ es = [.tw s.addr (m :: r :: p) (.err e)]) ∨
       (∃ n x e, a = .tr n x ∧ k = .readFault e ∧ es = [.tr s.addr n (.err e)]) ∨
       (∃ m r n e, a = .twr m r n ∧ k = .readFault e ∧ es = [.twr s.addr [m, r] n (.err e)]) ∨
       (∃ n id bs, a = .tr n (some id) ∧ k = .wrongIdentity ∧ bs ≠ [id] ∧ bs.length = n ∧
         es = [.tr s.addr n (.ok bs)]) ∨
       (a = .raise k ∧ es = [])) := by
  cases a with
  | tw m r p =>
    cases hb : s.busIn with
    | nil => simp [perform_tw_wait m r p s hb] at h
    | cons x rest =>
      cases x with
      | ok d => simp [perform_tw_ok m r p s d rest hf hb] at h
      | err e =>
        rw [perform_tw_err m r p s e rest hf hb, Verdict.raised.injEq] at h
        obtain ⟨rfl, rfl⟩ := h
        exact ⟨_, by constructor <;> first | rfl | simp [hb], .inl ⟨m, r, p, e, rfl, rfl, rfl⟩⟩
  | tr n expect =>
    cases hb : s.busIn with
    | nil => simp [perform_tr_wait n expect s hb] at h
    | cons x rest =>
      cases x with
      | err e =>
        rw [perform_tr_err n expect s e rest hb, Verdict.raised.injEq] at h
        obtain ⟨rfl, rfl⟩ := h
        exact ⟨_, by constructor <;> first | rfl | simp [hb], .inr (.inl ⟨n, expect, e, rfl, rfl, rfl⟩)⟩
      | ok d =>
        rw [perform_tr_ok n expect s d rest hb] at h
        cases expect with
        | none => simp [compareIdentity] at h
        | some id =>
          simp only [compareIdentity] at h
          split at h
          · simp at h
          · rename_i hid
            rw [Verdict.raised.injEq] at h
            obtain ⟨rfl, rfl⟩ := h
            exact ⟨_, by constructor <;> first | rfl | simp [hb],
              .inr (.inr (.inr (.inl ⟨n, id, _, rfl, rfl, hid, take_toList_length d n hf, rfl⟩)))⟩
  | twr m r n =>
    cases hb : s.busIn with
    | nil => simp [perform_twr_wait m r n s hb] at h
    | cons x rest =>
      cases x with
      | ok d => simp [perform_twr_ok m r n s d rest hb] at h
      | err e =>
        rw [perform_twr_err m r n s e rest hb, Verdict.raised.injEq] at h
        obtain ⟨rfl, rfl⟩ := h
        exact ⟨_, by constructor <;> first | rfl | simp [hb], .inr (.inr (.inl ⟨m, r, n, e, rfl, rfl, rfl⟩))⟩
  | dly ms =>
    cases hd : s.delayIn with
    | zero => simp [perform_dly_wait ms s hd] at h
    | succ k => simp [perform_dly_done ms s k hd] at h
  | raise k' =>
    simp only [perform, Verdict.raised.injEq] at h
    obtain ⟨rfl, rfl⟩ := h
    exact ⟨[], by constructor <;> simp, .inr (.inr (.inr (.inr ⟨rfl, rfl⟩)))⟩

/-- Everything an act that waits can do: the frame buffer may hold its frame; performed again it waits there still. -/
theorem perform_waiting {a : Act} {s t : State} (h : perform a s = .waiting t) :
    t = { s with fb := t.fb } ∧ perform a t = .waiting t ∧ (s.busIn = [] ∨ s.delayIn = 0) := by
  cases a with
  | tw m r p =>
    cases hb : s.busIn with
    | nil =>
      rw [perform_tw_wait m r p s hb, Verdict.waiting.injEq] at h
      subst h
      refine ⟨by rw [← hb]; rfl, ?_, .inl rfl⟩
      rw [perform_tw_wait m r p _ (by simpa using hb), stage_idem]
    | cons x rest => cases x <;> simp [perform, hb] at h
  | tr n expect =>
    cases hb : s.busIn with
    | nil =>
      rw [perform_tr_wait n expect s hb, Verdict.waiting.injEq] at h
      subst h
      exact ⟨by rw [← hb], perform_tr_wait n expect s hb, .inl rfl⟩
    | cons x rest =>
      cases x with
      | err e => simp [perform_tr_err n expect s e rest hb] at h
      | ok d =>
        rw [perform_tr_ok n expect s d rest hb] at h
        cases expect with
        | none => simp [compareIdentity] at h
        | some id =>
          simp only [compareIdentity] at h
          split at h <;> simp at h
  | twr m r n =>
    cases hb : s.busIn with
    | nil =>
      rw [perform_twr_wait m r n s hb, Verdict.waiting.injEq] at h
      subst h
      refine ⟨by rw [← hb]; rfl, ?_, .inl rfl⟩
      rw [perform_twr_wait m r n _ (by simpa using hb), stage_idem]
    | cons x rest => cases x <;> simp [perform, hb] at h
  | dly ms =>
    cases hd : s.delayIn with
    | zero =>
      rw [perform_dly_wait ms s hd, Verdict.waiting.injEq] at h
      subst h
      exact ⟨by rw [← hd], perform_dly_wait ms s hd, .inr rfl⟩
    | succ k => simp [perform_dly_done ms s k hd] at h
  | raise k => simp [perform] at h

/-! ### A whole body -/

/-- The acts are performed one after the other, each going on, from `s` to `t`. -/
def Performed : List Act → State → State → Prop
  | [], s, t => t = s
  | a :: rest, s, t => ∃ s', perform a s = .done s' ∧ Performed rest s' t

/-- The three ways a run can end: at its end, with the first error raised, or waiting for an answer. -/
theorem runActs_cases (fin : State → State) (acts : List Act) (s : State) :
    (∃ s', Performed acts s s' ∧ runActs fin acts s = fin s') ∨
    (∃ pre a post s' k s'', acts = pre ++ a :: post ∧ Performed pre s s' ∧ perform a s' = .raised k s'' ∧
      runActs fin acts s = s''.raise k) ∨
    (∃ pre a post s' s'', acts = pre ++ a :: post ∧ Performed pre s s' ∧ perform a s' = .waiting s'' ∧
      runActs fin acts s = s'') := by
  induction acts generalizing s with
  | nil => exact .inl ⟨s, rfl, rfl⟩
  | cons a rest ih =>
    cases hp : perform a s with
    | raised k s' =>
      exact .inr (.inl ⟨[], a, rest, s, k, s', rfl, rfl, hp, by simp [runActs, hp]⟩)
    | waiting s' =>
      exact .inr (.inr ⟨[], a, rest, s, s', rfl, rfl, hp, by simp [runActs, hp]⟩)
    | done s1 =>
      have hr : runActs fin (a :: rest) s = runActs fin rest s1 := by simp [runActs, hp]
      rw [hr]
      rcases ih s1 with ⟨s', h1, h2⟩ | ⟨pre, b, post, s', k, s'', he, h1, h2, h3⟩ | ⟨pre, b, post, s', s'', he, h1, h2, h3⟩
      · exact .inl ⟨s', ⟨s1, hp, h1⟩, h2⟩
      · exact .inr (.inl ⟨a :: pre, b, post, s', k, s'', by simp [he], ⟨s1, hp, h1⟩, h2, h3⟩)
      · exact .inr (.inr ⟨a :: pre, b, post, s', s'', by simp [he], ⟨s1, hp, h1⟩, h2, h3⟩)

theorem runActs_cons_done {fin : State → State} {a : Act} {rest : List Act} {s s' : State}
    (h : perform a s = .done s') : runActs fin (a :: rest) s = runActs fin rest s' := by simp [runActs, h]

theorem runActs_cons_raised {fin : State → State} {a : Act} {rest : List Act} {s s' : State} {k : ErrKind}
    (h : perform a s = .raised k s') : runActs fin (a :: rest) s = s'.raise k := by simp [runActs, h]

theorem runActs_cons_waiting {fin : State → State} {a : Act} {rest : List Act} {s s' : State}
    (h : perform a s = .waiting s') : runActs fin (a :: rest) s = s' := by simp [runActs, h]

/-- What a performed body leaves: its events on the trace, all answered `Ok`, and the answers taken. -/
structure Went (acts : List Act) (s t : State) : Prop where
  st : t.st = s.st
  addr : t.addr = s.addr
  current : t.current = s.current
  seq : t.seq = s.seq + acts.length
  result : t.result = s.result
  cfg : t.cfg = s.cfg
  cmdIn : t.cmdIn = s.cmdIn
  busIn : t.busIn <:+ s.busIn
  delayIn : t.delayIn ≤ s.delayIn
  resetIn : t.resetIn = s.resetIn
  epoch : t.epoch = s.epoch
  trace : ∃ es, t.trace = s.trace ++ es ∧ OkTrace s.addr acts es

theorem performed_went {acts : List Act} {s t : State} (hf : ∀ a ∈ acts, a.Fits) (h : Performed acts s t) :
    Went acts s t := by
  induction acts generalizing s with
  | nil =>
    cases h
    exact ⟨rfl, rfl, rfl, rfl, rfl, rfl, rfl, List.suffix_refl _, Nat.le_refl _, rfl, rfl, [], by simp, List.Forall₂.nil⟩
  | cons a rest ih =>
    obtain ⟨s1, h1, h2⟩ := h
    have g := perform_done (hf a (by simp)) h1
    have w := ih (fun b hb => hf b (by simp [hb])) h2
    obtain ⟨e, he, hok⟩ := g.trace
    obtain ⟨es, hes, hall⟩ := w.trace
    refine ⟨w.st.trans g.st, w.addr.trans g.addr, w.current.trans g.current, ?_, w.result.trans g.result,
      w.cfg.trans g.cfg, w.cmdIn.trans g.cmdIn, w.busIn.trans g.busIn, Nat.le_trans w.delayIn g.delayIn,
      w.resetIn.trans g.resetIn, w.epoch.trans g.epoch, e :: es, ?_, ?_⟩
    · rw [w.seq, g.seq, List.length_cons]; omega
    · rw [hes, he]; simp
    · rw [g.addr] at hall; exact List.Forall₂.cons hok hall

/-! ### The start of an operation -/

theorem operate_idle {i : Instr} {body : List Act} {fin : State → State} {s : State} (h : s.current = none) :
    operate i body fin s = runActs fin body (s.accept i) := by
  simp [operate, h]

theorem operate_busy {i j : Instr} {body : List Act} {fin : State → State} {s : State} (h : s.current = some j) :
    operate i body fin s = s := by
  simp [operate, h]

/-- An operation that ends with a value as soon as it is accepted. -/
theorem finish_accept {s : State} (h : s.current = none) (i : Instr) (r : Result) :
    (s.accept i).finish r = { s with seq := 0, result := some r } := by
  ext1 <;> simp [h]

/-- An operation that raises as soon as it is accepted. -/
theorem raise_accept {s : State} (h : s.current = none) (i : Instr) (k : ErrKind) :
    (s.accept i).raise k =
      { s with seq := 0, result := some (.err k), st := if k.failFast then .faulted else s.st } := by
  ext1 <;> simp [h]

/-- Everything a command can do before its body: not taken, refused by its first failing check, or started. -/
theorem command_cases (i : Instr) (offered : Bool) (needs : Lifecycle) (operand : Option ContractReason)
    (prepare : State → State) (body : List Act) (fin : State → State) (s : State) :
    (∃ j, s.current = some j ∧ command i offered needs operand prepare body fin s = s) ∨
    (s.current = none ∧ ∃ why, commandCheck offered needs operand s = some why ∧
      command i offered needs operand prepare body fin s = s.raise (.contractViolation why)) ∨
    (s.current = none ∧ commandCheck offered needs operand s = none ∧
      command i offered needs operand prepare body fin s = runActs fin body (prepare (s.accept i))) := by
  cases hc : s.current with
  | some j => exact .inl ⟨j, rfl, by simp [command, hc]⟩
  | none =>
    cases hk : commandCheck offered needs operand s with
    | some why => exact .inr (.inl ⟨rfl, why, rfl, by simp [command, hc, hk]⟩)
    | none => exact .inr (.inr ⟨rfl, rfl, by simp [command, hc, hk]⟩)

theorem commandCheck_none {offered : Bool} {needs : Lifecycle} {operand : Option ContractReason} {s : State}
    (h : commandCheck offered needs operand s = none) :
    s.st ≠ .faulted ∧ offered = true ∧ s.st = needs ∧ operand = none := by
  unfold commandCheck at h
  split at h
  · simp at h
  · split at h
    · simp at h
    · split at h
      · simp at h
      · simp_all

theorem commandCheck_ok {offered : Bool} {needs : Lifecycle} {s : State} (hn : needs ≠ .faulted) (ho : offered = true)
    (hs : s.st = needs) (operand : Option ContractReason) : commandCheck offered needs operand s = operand := by
  simp [commandCheck, hs, hn, ho]

end Sys2Proof.Machine
end

