-- ==== Sys2Proof/Laws/PerInstr.lean ====
section
/-! SUPPORT. The family Encoding, one lemma per instruction: the decoder gives back the instruction the encoder wrote. -/

namespace Sys2Proof.Laws.Encoding

/-- The word of a well-formed instruction decodes to it, on every build whose registers are pairwise different. -/
def Statement (i : Instr) : Prop :=
  ∀ c : Config, c.distinct = true → i.wellFormed = true → decode c (encode c i) = .ok i

theorem new (a : DevAddr) : Statement (.new a) := fun _ _ _ => by
  simp [decode, encode, decodeCommand, address_msb a, address_low a]

theorem setLedColor (index r g b : Byte) : Statement (.setLedColor index r g b) := fun _ _ _ => by
  simp [decode, encode, decodeCommand]

theorem showLed : Statement .showLed := fun _ _ _ => by simp [decode, encode, decodeCommand]

theorem readKeyEvents (n : Byte) : Statement (.readKeyEvents n) := fun _ _ _ => by
  simp [decode, encode, decodeCommand]

theorem keypadCount : Statement .keypadCount := fun _ _ _ => by simp [decode, encode, decodeCommand]

theorem cmdReserved (x : ReservedCommand) : Statement (.cmdReserved x) := fun _ _ h => by
  simp only [Instr.wellFormed, decide_eq_true_eq] at h
  have hne : ∀ k : Byte, k.toNat < 5 → x.opcode ≠ k := fun k hk he => by rw [he] at h; omega
  simp [decode, encode, decodeCommand, hne 0#8 (by decide), hne 1#8 (by decide), hne 2#8 (by decide),
    hne 3#8 (by decide), hne 4#8 (by decide)]

theorem writeRegister (m r : Byte) (p : List Byte) : Statement (.writeRegister m r p) := fun _ _ _ => by
  simp [decode, encode]

theorem readRegister (m r : Byte) (n : Nat) : Statement (.readRegister m r n) := fun _ _ _ => by
  simp [decode, encode]

theorem swrst : Statement .swrst := fun _ _ _ => by simp [decode, encode, decodeWriteFrame]

theorem hwId : Statement .hwId := fun _ _ _ => by simp [decode, encode, decodeReadFrame]

theorem ledPin : Statement .ledPin := fun c hc _ => by
  obtain ⟨-, hl, -⟩ := Config.distinct_spec hc
  simp [decode, encode, decodeWriteFrame, Config.modLed, Config.modStatus]

theorem ledBufLength : Statement .ledBufLength := fun c hc _ => by
  obtain ⟨-, hl, -⟩ := Config.distinct_spec hc
  simp [decode, encode, decodeWriteFrame, Config.modLed, Config.modStatus, hl.1.symm]

theorem ledBuf (h l g r b : Byte) : Statement (.ledBuf h l g r b) := fun c hc _ => by
  obtain ⟨-, ⟨-, h1, -, h2, -, -⟩, -⟩ := Config.distinct_spec hc
  simp [decode, encode, decodeWriteFrame, Config.modLed, Config.modStatus, Config.regLedBuf, h1.symm, h2.symm]

theorem ledShow : Statement .ledShow := fun c hc _ => by
  obtain ⟨-, ⟨-, -, h1, -, h2, h3⟩, -⟩ := Config.distinct_spec hc
  simp [decode, encode, decodeWriteFrame, Config.modLed, Config.modStatus, Config.regLedBuf, h1.symm, h2.symm, h3]

theorem keypadEvent (r c : BitVec 2) (mask : Byte) : Statement (.keypadEvent r c mask) := fun _ _ _ => by
  simp [decode, encode, decodeWriteFrame, Config.modLed, Config.modStatus, Config.modKeypad, isKeyByte_keyByte r c,
    keyRow_keyByte r c, keyCol_keyByte r c]

theorem keypadCountReg : Statement .keypadCountReg := fun _ _ _ => by
  simp [decode, encode, decodeReadFrame, Config.modKeypad, Config.modStatus]

theorem keypadFifo (n : Nat) : Statement (.keypadFifo n) := fun c hc _ => by
  obtain ⟨-, -, -, -, h⟩ := Config.distinct_spec hc
  simp [decode, encode, decodeReadFrame, Config.modKeypad, Config.modStatus, h.symm]

theorem evEmpty : Statement .evEmpty := fun _ _ _ => by simp [decode, encode, oneByte, decodeEventByte]

theorem evHigh (r c : BitVec 2) : Statement (.evHigh r c) := fun _ _ _ => by
  simp only [decode, encode, oneByte, decodeEventByte_high r c]; rfl

theorem evLow (r c : BitVec 2) : Statement (.evLow r c) := fun _ _ _ => by
  simp only [decode, encode, oneByte, decodeEventByte_low r c]; rfl

theorem evFalling (r c : BitVec 2) : Statement (.evFalling r c) := fun _ _ _ => by
  simp only [decode, encode, oneByte, decodeEventByte_falling r c]; rfl

theorem evRising (r c : BitVec 2) : Statement (.evRising r c) := fun _ _ _ => by
  simp only [decode, encode, oneByte, decodeEventByte_rising r c]; rfl

theorem evMalformed (x : Byte) : Statement (.evMalformed x) := fun _ _ h => by
  simp only [Instr.wellFormed, Bool.and_eq_true, decide_eq_true_eq] at h
  simp only [decode, encode, oneByte, decodeEventByte_malformed h.1 h.2]; rfl

theorem keyToWire (i : Byte) : Statement (.keyToWire i) := fun _ _ h => by
  simp only [Instr.wellFormed, decide_eq_true_eq] at h
  simp only [decode, encode, oneByte, isKeyByte_keyByte, index_of_keyByte i h]; rfl

theorem keyFromWire (w : Byte) : Statement (.keyFromWire w) := fun _ _ _ => by
  simp [decode, encode, oneByte]

theorem colorToWire (r g b : Byte) : Statement (.colorToWire r g b) := fun _ _ _ => by simp [decode, encode]

theorem eventDecode (e : Byte) : Statement (.eventDecode e) := fun _ _ _ => by simp [decode, encode, oneByte]

end Sys2Proof.Laws.Encoding
end

