-- ==== Sys2Proof/Laws/Sequencer.lean ====
section
/-! SUPPORT. The bodies written out, what follows a body, and everything an instruction and a step can do. -/

namespace Sys2Proof.Machine

/-! ### The bodies written out -/

theorem writeRegisterActs_short {m r : Byte} {p : List Byte} (h : p.length < 32) :
    writeRegisterActs m r p = [.tw m r p] := by
  simp [writeRegisterActs, Config.payloadLimit, h]

theorem writeRegisterActs_long {m r : Byte} {p : List Byte} (h : 32 ≤ p.length) :
    writeRegisterActs m r p = [.raise (.contractViolation .payloadTooLong)] := by
  simp [writeRegisterActs, Config.payloadLimit, Nat.not_lt.2 h]

theorem readRegisterActs_full {c : Config} {m r : Byte} {n : Nat} {x : Option Byte} (ht : c.tier = .full) (h : n ≤ 32) :
    readRegisterActs c m r n x = [.tw m r [], .dly 6, .tr n x] := by
  simp [readRegisterActs, Config.readLimit, h, ht, Config.tReadMs]

theorem readRegisterActs_lite {c : Config} {m r : Byte} {n : Nat} {x : Option Byte} (ht : c.tier = .lite) (h : n ≤ 32) :
    readRegisterActs c m r n x = [.twr m r n] := by
  simp [readRegisterActs, Config.readLimit, h, ht]

theorem readRegisterActs_long {c : Config} {m r : Byte} {n : Nat} {x : Option Byte} (h : 32 < n) :
    readRegisterActs c m r n x = [.raise (.contractViolation .readTooLong)] := by
  simp [readRegisterActs, Config.readLimit, Nat.not_le.2 h]

/-- The 64 arming writes (44_bringup.md R177, R178). -/
theorem armAllActs_eq (c : Config) :
    armAllActs c =
      packedKeys.flatMap (fun w => [.tw 0x10 c.regKeypadEvent [w, 0x02], .tw 0x10 c.regKeypadEvent [w, 0x04],
        .tw 0x10 c.regKeypadEvent [w, 0x09], .tw 0x10 c.regKeypadEvent [w, 0x11]]) := rfl

/-- The Full-tier bring-up (44_bringup.md R175). -/
theorem newBody_full {c : Config} (ht : c.tier = .full) :
    newBody c =
      [.tw 0x00 c.regStatusSwrst [0xFF], .dly 500, .tw 0x00 c.regStatusHwId [], .dly 6, .tr 1 (some c.hwIdCode),
        .tw 0x0E c.regLedPin [0x03], .tw 0x0E c.regLedBufLength [0x00, 0x30]] ++ armAllActs c := by
  rw [newBody, ht]
  simp only [readRegisterActs_full ht (show (1 : Nat) ≤ 32 by decide)]
  rfl

/-- The Lite-tier bring-up (44_bringup.md R176). -/
theorem newBody_lite {c : Config} (ht : c.tier = .lite) :
    newBody c = [.tw 0x0E c.regLedPin [0x03], .tw 0x0E c.regLedBufLength [0x00, 0x30]] := by
  rw [newBody, ht]; rfl

theorem writeRegisterActs_fits (m r : Byte) (p : List Byte) : ∀ a ∈ writeRegisterActs m r p, a.Fits := by
  unfold writeRegisterActs
  split
  · rename_i h; simpa [Act.Fits, Config.payloadLimit] using h
  · simp [Act.Fits]

theorem readRegisterActs_fits (c : Config) (m r : Byte) (n : Nat) (x : Option Byte) :
    ∀ a ∈ readRegisterActs c m r n x, a.Fits := by
  unfold readRegisterActs
  split
  · rename_i h
    have h : n ≤ 32 := h
    split <;> simp [Act.Fits, h]
  · simp [Act.Fits]

theorem armAllActs_fits (c : Config) : ∀ a ∈ armAllActs c, a.Fits := by
  rw [armAllActs_eq]
  intro a ha
  obtain ⟨w, -, h⟩ := List.mem_flatMap.1 ha
  simp only [List.mem_cons, List.not_mem_nil, or_false] at h
  rcases h with rfl | rfl | rfl | rfl <;> simp [Act.Fits]

theorem newBody_fits (c : Config) : ∀ a ∈ newBody c, a.Fits := by
  cases ht : c.tier with
  | full =>
    rw [newBody_full ht]
    intro a ha
    rcases List.mem_append.1 ha with h | h
    · simp only [List.mem_cons, List.not_mem_nil, or_false] at h
      rcases h with rfl | rfl | rfl | rfl | rfl | rfl | rfl <;> simp [Act.Fits]
    · exact armAllActs_fits c a h
  | lite =>
    rw [newBody_lite ht]
    simp [Act.Fits]

/-- Every body fits the staging buffers (43_register_protocol.md R161). -/
theorem bodyOf_fits (c : Config) (i : Instr) : ∀ a ∈ bodyOf c i, a.Fits := by
  cases i <;> simp only [bodyOf, setLedColorBody, readKeyEventsBody, keypadFifoBody, keypadCountBody,
    keypadCountRegBody, swrstBody, hwIdBody, ledPinBody, ledBufLengthBody, ledBufBody, ledShowBody, keypadEventBody,
    keypadEventActs] <;>
    first
    | exact writeRegisterActs_fits _ _ _
    | exact readRegisterActs_fits _ _ _ _ _
    | exact newBody_fits c
    | skip
  case showLed =>
    intro a ha
    unfold showLedBody at ha
    rcases List.mem_append.1 ha with h | h
    · exact writeRegisterActs_fits _ _ _ a h
    · split at h <;> simp at h
      subst h; simp [Act.Fits]
  all_goals simp [Act.Fits]

/-! ### What follows a body -/

/-- Everything the end of an operation can do: it hands a result over and frees the block; `st` stays, or the result
is a fail-fast error and it is Faulted, or the operation is NEW and it is Ready. -/
structure Ends (i : Instr) (s t : State) : Prop where
  addr : t.addr = s.addr
  fb : t.fb = s.fb
  rb : t.rb = s.rb
  current : t.current = none
  seq : t.seq = 0
  cfg : t.cfg = s.cfg
  cmdIn : t.cmdIn = s.cmdIn
  busIn : t.busIn = s.busIn
  delayIn : t.delayIn = s.delayIn
  resetIn : t.resetIn = s.resetIn
  epoch : t.epoch = s.epoch
  trace : t.trace = s.trace
  result : t.result.isSome = true
  st : t.st = s.st ∧ (∃ r, t.result = some r ∧ ∀ k, r = .err k → k.failFast = false) ∧ (∀ a, i ≠ .new a) ∨
    t.st = .faulted ∧ (∃ k, t.result = some (.err k) ∧ k.failFast = true) ∨
    t.st = .ready ∧ t.result = some (.ok .unit) ∧ ∃ a, i = .new a

theorem finish_ends {i : Instr} (v : Value) (s : State) (hi : ∀ a, i ≠ .new a) : Ends i s (s.finish (.ok v)) := by
  constructor <;> first | rfl | skip
  exact .inl ⟨rfl, ⟨_, rfl, by simp⟩, hi⟩

theorem conclude_ends {i : Instr} (r : Except ErrKind Value) (s : State) (hi : ∀ a, i ≠ .new a)
    (hr : ∀ k, r = .error k → k.failFast = true) : Ends i s (s.conclude r) := by
  cases r with
  | ok v => exact finish_ends v s hi
  | error k =>
    constructor <;> first | rfl | skip
    exact .inr (.inl ⟨by simp [hr k rfl], k, rfl, hr k rfl⟩)

theorem eventDecode_error {e : Byte} {k : ErrKind} (h : eventDecode e = .error k) :
    k = .decodeFault .malformedKey := by
  unfold eventDecode at h
  split at h
  · simp at h
  · split at h
    · simp at h
    · simpa using h.symm

theorem decodeSlots_error {bs : List Byte} {k : ErrKind} (h : decodeSlots bs = .error k) :
    k = .decodeFault .malformedKey := by
  induction bs with
  | nil => simp [decodeSlots] at h
  | cons b bs ih =>
    unfold decodeSlots at h
    split at h
    · rename_i k' hk
      rw [Except.error.injEq] at h
      subst h; exact eventDecode_error hk
    · split at h
      · rename_i k' hk
        rw [Except.error.injEq] at h
        subst h; exact ih hk
      · simp at h

theorem keyToWire_error {i : Byte} {k : ErrKind} (h : keyToWire i = .error k) :
    k = .contractViolation .keyIndexRange := by
  unfold keyToWire at h
  split at h
  · simp at h
  · simpa using h.symm

theorem map_error {α β : Type} {f : α → β} {r : Except ErrKind α} {k : ErrKind} (h : r.map f = .error k) :
    r = .error k := by
  cases r <;> simp_all [Except.map]

theorem finishEvent_ends {i : Instr} (e : Byte) (s : State) (hi : ∀ a, i ≠ .new a) : Ends i s (finishEvent e s) :=
  conclude_ends _ s hi (fun _ hk => by rw [eventDecode_error (map_error hk)]; rfl)

/-- The end of every operation. -/
theorem finishOf_ends (i : Instr) (s : State) : Ends i s (finishOf i s) := by
  cases i <;> simp only [finishOf, finishUnit, finishByte, finishRead, finishIdentity, finishColor] <;>
    first
    | exact finish_ends _ s (by simp)
    | exact finishEvent_ends _ s (by simp)
    | skip
  case new a =>
    constructor <;> first | rfl | skip
    exact .inr (.inr ⟨rfl, rfl, a, rfl⟩)
  case readKeyEvents n =>
    exact conclude_ends _ s (by simp) (fun _ hk => by rw [decodeSlots_error (map_error hk)]; rfl)
  case keyToWire j =>
    exact conclude_ends _ s (by simp) (fun _ hk => by rw [keyToWire_error (map_error hk)]; rfl)
  case keyFromWire w =>
    refine conclude_ends _ s (by simp) (fun k hk => ?_)
    split at hk
    · simp at hk
    · rw [Except.error.injEq] at hk
      subst hk; rfl

/-! ### An instruction -/

/-- Everything an instruction can do: not taken while another runs; refused by a check, a command only; or its body
run from its start. -/
theorem exec_cases (i : Instr) (s : State) :
    (∃ j, s.current = some j ∧ exec i s = .next s) ∨
    (s.current = none ∧ i.isCommand = true ∧ ∃ why, exec i s = .next (s.raise (.contractViolation why))) ∨
    (s.current = none ∧ Allowed i s ∧ exec i s = .next (runActs (finishOf i) (bodyOf s.cfg i) (startState i s))) := by
  have cmd : ∀ (offered : Bool) (needs : Lifecycle) (operand : Option ContractReason) (prepare : State → State),
      i.isCommand = true →
      (∀ s', prepare (s'.accept i) = startState i s') →
      exec i s = .next (command i offered needs operand prepare (bodyOf s.cfg i) (finishOf i) s) →
      (s.st = needs → offered = true → operand = none → Allowed i s) →
      (∃ j, s.current = some j ∧ exec i s = .next s) ∨
      (s.current = none ∧ i.isCommand = true ∧ ∃ why, exec i s = .next (s.raise (.contractViolation why))) ∨
      (s.current = none ∧ Allowed i s ∧
        exec i s = .next (runActs (finishOf i) (bodyOf s.cfg i) (startState i s))) := by
    intro offered needs operand prepare hi hp he ha
    rw [he]
    rcases command_cases i offered needs operand prepare (bodyOf s.cfg i) (finishOf i) s with
      ⟨j, hj, h⟩ | ⟨hn, why, -, h⟩ | ⟨hn, hk, h⟩
    · exact .inl ⟨j, hj, by rw [h]⟩
    · exact .inr (.inl ⟨hn, hi, why, by rw [h]⟩)
    · obtain ⟨-, ho, hs, hop⟩ := commandCheck_none hk
      exact .inr (.inr ⟨hn, ha hs ho hop, by rw [h, hp]⟩)
  have plain : startState i s = s.accept i → Allowed i s →
      exec i s = .next (operate i (bodyOf s.cfg i) (finishOf i) s) →
      (∃ j, s.current = some j ∧ exec i s = .next s) ∨
      (s.current = none ∧ i.isCommand = true ∧ ∃ why, exec i s = .next (s.raise (.contractViolation why))) ∨
      (s.current = none ∧ Allowed i s ∧
        exec i s = .next (runActs (finishOf i) (bodyOf s.cfg i) (startState i s))) := by
    intro hst ha he
    cases hc : s.current with
    | some j => exact .inl ⟨j, rfl, by rw [he, operate_busy hc]⟩
    | none => exact .inr (.inr ⟨rfl, ha, by rw [he, operate_idle hc, hst]⟩)
  cases i
  case new a => exact cmd true .uninitialized none (newPrepare a) rfl (fun _ => rfl) rfl (fun h _ _ => h)
  case setLedColor index r g b =>
    refine cmd true .ready (ledIndexCheck index) id rfl (fun _ => rfl) rfl (fun h _ h2 => ⟨h, ?_⟩)
    unfold ledIndexCheck at h2
    split at h2
    · assumption
    · simp at h2
  case showLed => exact cmd true .ready none id rfl (fun _ => rfl) rfl (fun h _ _ => h)
  case readKeyEvents n =>
    exact cmd (keypadOffered s.cfg) .ready none id rfl (fun _ => rfl) rfl
      (fun h h2 _ => ⟨h, by simpa [keypadOffered] using h2⟩)
  case keypadCount =>
    exact cmd (keypadOffered s.cfg) .ready none id rfl (fun _ => rfl) rfl
      (fun h h2 _ => ⟨h, by simpa [keypadOffered] using h2⟩)
  case cmdReserved x =>
    cases hc : s.current with
    | some j => exact .inl ⟨j, rfl, by simp [exec, execCmdReserved, reservedCommand, hc]⟩
    | none => exact .inr (.inl ⟨rfl, rfl, if s.st = .faulted then .faulted else .badCommand,
        by simp [exec, execCmdReserved, reservedCommand, hc]⟩)
  all_goals exact plain rfl trivial rfl

/-- An instruction its checks allow runs its body (60_exceptions.md R213). -/
theorem exec_allowed {i : Instr} {s : State} (hi : Idle s) (ha : Allowed i s) :
    exec i s = .next (runActs (finishOf i) (bodyOf s.cfg i) (startState i s)) := by
  have hi' : s.current = none := hi
  cases i
  case cmdReserved => exact ha.elim
  case new a =>
    have ha : s.st = .uninitialized := ha
    simp [exec, execNew, command, hi', commandCheck, ha, bodyOf, finishOf, startState]
  case setLedColor index r g b =>
    obtain ⟨h1, h2⟩ := ha
    simp [exec, execSetLedColor, command, hi', commandCheck, h1, ledIndexCheck, Config.nLeds, h2, bodyOf, finishOf, startState]
  case showLed =>
    have ha : s.st = .ready := ha
    simp [exec, execShowLed, command, hi', commandCheck, ha, bodyOf, finishOf, startState]
  case readKeyEvents n =>
    obtain ⟨h1, h2⟩ := ha
    simp [exec, execReadKeyEvents, command, hi', commandCheck, h1, keypadOffered, h2, bodyOf, finishOf, startState]
  case keypadCount =>
    obtain ⟨h1, h2⟩ := ha
    simp [exec, execKeypadCount, command, hi', commandCheck, h1, keypadOffered, h2, bodyOf, finishOf, startState]
  all_goals exact congrArg _ (operate_idle hi')

/-- Every instruction gives a next state: every error of the spec is a result (60_exceptions.md R220). -/
theorem exec_next (i : Instr) (s : State) : ∃ t, exec i s = .next t := by
  rcases exec_cases i s with ⟨_, _, h⟩ | ⟨_, _, _, h⟩ | ⟨_, _, h⟩ <;> exact ⟨_, h⟩

/-! ### The start of a body and its run -/

theorem startState_current (i : Instr) (s : State) : (startState i s).current = some i := by cases i <;> rfl

theorem startState_seq (i : Instr) (s : State) : (startState i s).seq = 0 := by cases i <;> rfl

/-- But for NEW, an instruction starts at the address it found. -/
theorem startState_addr {i : Instr} (h : ∀ a, i ≠ .new a) (s : State) : (startState i s).addr = s.addr := by
  cases i <;> first | rfl | exact absurd rfl (h _)

/-- The start of a body changes the operation in progress, `seq` and, for NEW, `addr`. -/
theorem startState_eq (i : Instr) (s : State) :
    startState i s = { s with current := some i, seq := 0, addr := (startState i s).addr } := by
  cases i <;> rfl

/-- Starting a body is taking it up at its first event. -/
theorem run_startState (i : Instr) (s : State) :
    runActs (finishOf i) (bodyOf s.cfg i) (startState i s) = resume i (startState i s) := by
  rw [resume, startState_seq, List.drop_zero, show (startState i s).cfg = s.cfg by rw [startState_eq]]

/-- Everything the run of an operation from the event `seq` on can do: reach its end, raise the first error, or wait. -/
theorem resume_cases (i : Instr) (s : State) :
    (∃ s', Went ((bodyOf s.cfg i).drop s.seq) s s' ∧ resume i s = finishOf i s') ∨
    (∃ pre a post s' k s'', (bodyOf s.cfg i).drop s.seq = pre ++ a :: post ∧ Went pre s s' ∧ a.Fits ∧
      perform a s' = .raised k s'' ∧ resume i s = s''.raise k) ∨
    (∃ pre a post s' s'', (bodyOf s.cfg i).drop s.seq = pre ++ a :: post ∧ Went pre s s' ∧ a.Fits ∧
      perform a s' = .waiting s'' ∧ resume i s = s'') := by
  have hf : ∀ a ∈ (bodyOf s.cfg i).drop s.seq, a.Fits := fun a ha => bodyOf_fits s.cfg i a (List.mem_of_mem_drop ha)
  rcases runActs_cases (finishOf i) ((bodyOf s.cfg i).drop s.seq) s with
    ⟨s', h1, h2⟩ | ⟨pre, a, post, s', k, s'', he, h1, h2, h3⟩ | ⟨pre, a, post, s', s'', he, h1, h2, h3⟩
  · exact .inl ⟨s', performed_went hf h1, h2⟩
  · exact .inr (.inl ⟨pre, a, post, s', k, s'', he, performed_went (fun b hb => hf b (by simp [he, hb])) h1,
      hf a (by simp [he]), h2, h3⟩)
  · exact .inr (.inr ⟨pre, a, post, s', s'', he, performed_went (fun b hb => hf b (by simp [he, hb])) h1,
      hf a (by simp [he]), h2, h3⟩)

/-- An error stands in a body only where it is the whole body, the length check of a primitive or a reserved opcode. -/
theorem bodyOf_raise (c : Config) (i : Instr) :
    (∀ a ∈ bodyOf c i, ∀ k, a ≠ .raise k) ∨ ∃ why, bodyOf c i = [.raise (.contractViolation why)] := by
  cases i
  case new a =>
    left
    intro x hx k
    simp only [bodyOf] at hx
    cases ht : c.tier
    · rw [newBody_full ht, armAllActs_eq] at hx
      rintro rfl
      simp [packedKeys] at hx
    · rw [newBody_lite ht] at hx
      rintro rfl
      simp at hx
  case showLed =>
    left
    simp only [bodyOf, showLedBody, ledShowBody]
    rw [writeRegisterActs_short (by simp)]
    cases c.tier <;> simp
  case cmdReserved x => exact .inr ⟨_, rfl⟩
  all_goals simp only [bodyOf, setLedColorBody, readKeyEventsBody, keypadFifoBody, keypadCountBody,
    keypadCountRegBody, swrstBody, hwIdBody, ledPinBody, ledBufLengthBody, ledBufBody, ledShowBody, keypadEventBody,
    keypadEventActs, writeRegisterActs, readRegisterActs]
  all_goals repeat' split
  all_goals simp

/-! ### A step -/

/-- Everything a step can do. -/
theorem step_cases (s : State) :
    (s.resetIn = true ∧ step s = .next s.applyReset) ∨
    (s.resetIn = false ∧ ∃ i, s.current = some i ∧ step s = .next (resume i s)) ∨
    (s.resetIn = false ∧ s.current = none ∧ s.cmdIn = [] ∧ step s = .next s) ∨
    (s.resetIn = false ∧ s.current = none ∧ ∃ p rest why, s.cmdIn = p :: rest ∧ decode s.cfg p = .error why ∧
      step s = .next { s with cmdIn := rest }) ∨
    (s.resetIn = false ∧ s.current = none ∧ ∃ p rest i, s.cmdIn = p :: rest ∧ decode s.cfg p = .ok i ∧
      step s = exec i { s with cmdIn := rest }) := by
  cases hr : s.resetIn with
  | true => exact .inl ⟨rfl, by simp [step, stepWith, hr]⟩
  | false =>
    cases hc : s.current with
    | some i => exact .inr (.inl ⟨rfl, i, rfl, by simp [step, stepWith, hr, hc]⟩)
    | none =>
      cases hq : s.cmdIn with
      | nil => exact .inr (.inr (.inl ⟨rfl, rfl, rfl, by simp [step, stepWith, takeNext, hr, hc, hq]⟩))
      | cons p rest =>
        cases hd : decode s.cfg p with
        | error why =>
          exact .inr (.inr (.inr (.inl ⟨rfl, rfl, p, rest, why, rfl, hd, by simp [step, stepWith, takeNext, hr, hc, hq, hd]⟩)))
        | ok i =>
          exact .inr (.inr (.inr (.inr ⟨rfl, rfl, p, rest, i, rfl, hd, by simp [step, stepWith, takeNext, hr, hc, hq, hd]⟩)))

end Sys2Proof.Machine
end

