-- ==== Sys2Proof/Laws/Registers.lean ====
section
/-! SUPPORT. One register operation from its acceptance to its end: what a body of one write, of one Full-tier read
sequence and of one Lite-tier read comes to for every answer of the oracle. -/

namespace Sys2Proof.Machine

/-- A body that is one write, answered `Ok`. -/
theorem run_write {m r : Byte} {p : List Byte} {i : Instr} {s : State} {d : Vector Byte 32} {rest : List BusAnswer}
    (hi : Idle s) (hp : p.length < 32) (h : s.busIn = .ok d :: rest) :
    runActs finishUnit [.tw m r p] (s.accept i) = afterWrite (m :: r :: p) rest s := by
  have hi : s.current = none := hi
  rw [runActs_cons_done (perform_tw_ok m r p (s.accept i) d rest hp h), runActs]
  ext1 <;> simp [afterWrite, hi]

/-- A body whose first act is a write that fails. -/
theorem run_write_fault {fin : State → State} {more : List Act} {m r : Byte} {p : List Byte} {i : Instr} {s : State}
    {e : TransportError} {rest : List BusAnswer} (hi : Idle s) (hp : p.length < 32) (h : s.busIn = .err e :: rest) :
    runActs fin (.tw m r p :: more) (s.accept i) = afterWriteFault (m :: r :: p) e rest s := by
  have hi : s.current = none := hi
  rw [runActs_cons_raised (perform_tw_err m r p (s.accept i) e rest hp h)]
  ext1 <;> simp [afterWriteFault, hi, ErrKind.failFast]

/-- The state after the three events of a Full-tier read sequence, before its end. -/
def readFullDone (i : Instr) (m r : Byte) (n : Nat) (d : Vector Byte 32) (rest : List BusAnswer) (k : Nat) (s : State) :
    State :=
  { s with
    current := some i
    seq := 3
    fb := overlay [m, r] s.fb
    rb := overlay (d.toList.take n) s.rb
    busIn := rest
    delayIn := k
    trace := s.trace ++ [.tw s.addr [m, r] .ok, .dly 6, .tr s.addr n (.ok (d.toList.take n))] }

/-- A Full-tier read sequence answered `Ok` twice. -/
theorem run_read_full {fin : State → State} {m r : Byte} {n : Nat} {i : Instr} {s : State} {d0 d : Vector Byte 32}
    {rest : List BusAnswer} {k : Nat} (h : s.busIn = .ok d0 :: .ok d :: rest) (hk : s.delayIn = k + 1) :
    runActs fin [.tw m r [], .dly 6, .tr n none] (s.accept i) = fin (readFullDone i m r n d rest k s) := by
  rw [runActs_cons_done (perform_tw_ok m r [] (s.accept i) d0 (.ok d :: rest) (by simp) h),
    runActs_cons_done (perform_dly_done 6 _ k (by simpa using hk)), runActs,
    perform_tr_ok n none _ d rest (by simp [State.log, State.advance])]
  simp only [compareIdentity, runActs]
  refine congrArg fin ?_
  ext1 <;> simp [readFullDone]

/-- A Full-tier read sequence whose read fails. -/
theorem run_read_full_fault {fin : State → State} {m r : Byte} {n : Nat} {i : Instr} {s : State} {d0 : Vector Byte 32}
    {e : TransportError} {rest : List BusAnswer} {k : Nat} {x : Option Byte} (hi : Idle s)
    (h : s.busIn = .ok d0 :: .err e :: rest) (hk : s.delayIn = k + 1) :
    runActs fin [.tw m r [], .dly 6, .tr n x] (s.accept i) =
      { s with
        seq := 0
        fb := overlay [m, r] s.fb
        busIn := rest
        delayIn := k
        trace := s.trace ++ [.tw s.addr [m, r] .ok, .dly 6, .tr s.addr n (.err e)]
        result := some (.err (.readFault e)) } := by
  have hi : s.current = none := hi
  rw [runActs_cons_done (perform_tw_ok m r [] (s.accept i) d0 (.err e :: rest) (by simp) h),
    runActs_cons_done (perform_dly_done 6 _ k (by simpa using hk)),
    runActs_cons_raised (perform_tr_err n x _ e rest (by simp [State.log, State.advance]))]
  ext1 <;> simp [hi, ErrKind.failFast]

/-- The state after the one event of a Lite-tier read, before its end. -/
def readLiteDone (i : Instr) (m r : Byte) (n : Nat) (d : Vector Byte 32) (rest : List BusAnswer) (s : State) : State :=
  { s with
    current := some i
    seq := 1
    fb := overlay [m, r] s.fb
    rb := overlay (d.toList.take n) s.rb
    busIn := rest
    trace := s.trace ++ [.twr s.addr [m, r] n (.ok (d.toList.take n))] }

/-- A Lite-tier read answered `Ok`. -/
theorem run_read_lite {fin : State → State} {m r : Byte} {n : Nat} {i : Instr} {s : State} {d : Vector Byte 32}
    {rest : List BusAnswer} (h : s.busIn = .ok d :: rest) :
    runActs fin [.twr m r n] (s.accept i) = fin (readLiteDone i m r n d rest s) := by
  rw [runActs_cons_done (perform_twr_ok m r n (s.accept i) d rest h), runActs]
  refine congrArg fin ?_
  ext1 <;> simp [readLiteDone]

/-- A Lite-tier read that fails. -/
theorem run_read_lite_fault {fin : State → State} {m r : Byte} {n : Nat} {i : Instr} {s : State} {e : TransportError}
    {rest : List BusAnswer} (hi : Idle s) (h : s.busIn = .err e :: rest) :
    runActs fin [.twr m r n] (s.accept i) =
      { s with
        seq := 0
        fb := overlay [m, r] s.fb
        busIn := rest
        trace := s.trace ++ [.twr s.addr [m, r] n (.err e)]
        result := some (.err (.readFault e)) } := by
  have hi : s.current = none := hi
  rw [runActs_cons_raised (perform_twr_err m r n (s.accept i) e rest h)]
  ext1 <;> simp [hi, ErrKind.failFast]

/-! ### What a finished read returns -/

theorem take_overlay_take (d : Vector Byte 32) (v : Vector Byte 32) (n : Nat) (h : n ≤ 32) :
    (overlay (d.toList.take n) v).toList.take n = d.toList.take n := by
  have h1 := overlay_take (d.toList.take n) v (by simp)
  rwa [take_toList_length d n h] at h1

theorem received_readFullDone (i : Instr) (m r : Byte) (n : Nat) (d : Vector Byte 32) (rest : List BusAnswer) (k : Nat)
    (s : State) (h : n ≤ 32) : (readFullDone i m r n d rest k s).received n = d.toList.take n :=
  take_overlay_take d s.rb n h

theorem received_readLiteDone (i : Instr) (m r : Byte) (n : Nat) (d : Vector Byte 32) (rest : List BusAnswer)
    (s : State) (h : n ≤ 32) : (readLiteDone i m r n d rest s).received n = d.toList.take n :=
  take_overlay_take d s.rb n h

/-- The first byte of a transport's read buffer, as the list of one byte read. -/
theorem take_one (d : Vector Byte 32) : d.toList.take 1 = [d[0]] := by
  rcases d with ⟨⟨l⟩, hl⟩
  cases l with
  | nil => simp at hl
  | cons b bs => simp

/-- The end of a Full-tier read that returns a value. -/
theorem finish_readFullDone {i : Instr} {m r : Byte} {n : Nat} {d : Vector Byte 32} {rest : List BusAnswer} {k : Nat}
    {s : State} (hi : Idle s) (res : Result) :
    (readFullDone i m r n d rest k s).finish res = afterReadFull m r n (d.toList.take n) rest k res s := by
  have hi : s.current = none := hi
  ext1 <;> simp [readFullDone, afterReadFull, hi]

/-- The end of a Lite-tier read that returns a value. -/
theorem finish_readLiteDone {i : Instr} {m r : Byte} {n : Nat} {d : Vector Byte 32} {rest : List BusAnswer}
    {s : State} (hi : Idle s) (res : Result) :
    (readLiteDone i m r n d rest s).finish res = afterReadLite m r n (d.toList.take n) rest res s := by
  have hi : s.current = none := hi
  ext1 <;> simp [readLiteDone, afterReadLite, hi]

/-- The first byte of RB after a one-byte read. -/
theorem first_received (d v : Vector Byte 32) : (overlay (d.toList.take 1) v)[0] = d[0] := by
  rw [take_one]; exact overlay_head (n := 31) d[0] [] v

/-! ### A body of writes -/

/-- A write act from its module, register and payload. -/
def writeAct (x : Byte × Byte × List Byte) : Act := .tw x.1 x.2.1 x.2.2

/-- The frame of such a write. -/
def writeFrame (x : Byte × Byte × List Byte) : List Byte := x.1 :: x.2.1 :: x.2.2

/-- What FB holds after the frames of these writes were assembled in it, one after the other. -/
def stageAll (b : List (Byte × Byte × List Byte)) (v : Vector Byte 34) : Vector Byte 34 :=
  b.foldl (fun v x => overlay (writeFrame x) v) v

/-- A body of writes, all answered `Ok`. -/
theorem run_writes (fin : State → State) (b : List (Byte × Byte × List Byte)) (s : State) (ds : List (Vector Byte 32))
    (rest : List BusAnswer) (hp : ∀ x ∈ b, x.2.2.length < 32) (hl : ds.length = b.length)
    (h : s.busIn = ds.map BusAnswer.ok ++ rest) :
    runActs fin (b.map writeAct) s =
      fin { s with
        fb := stageAll b s.fb
        busIn := rest
        seq := s.seq + b.length
        trace := s.trace ++ b.map (fun x => .tw s.addr (writeFrame x) .ok) } := by
  induction b generalizing s ds with
  | nil =>
    have hd : ds = [] := List.length_eq_zero_iff.1 hl
    subst hd
    have h : s.busIn = rest := h
    subst h
    refine congrArg fin ?_
    ext1 <;> simp [stageAll]
  | cons x b ih =>
    cases ds with
    | nil => simp at hl
    | cons d ds =>
      rw [List.map_cons, writeAct, runActs_cons_done
        (perform_tw_ok x.1 x.2.1 x.2.2 s d (ds.map BusAnswer.ok ++ rest) (hp x (by simp)) (by simpa using h))]
      rw [ih _ ds (fun y hy => hp y (by simp [hy])) (by simpa using hl) (by simp)]
      refine congrArg fin ?_
      ext1 <;> simp [stageAll, writeFrame]
      omega

/-- After frames no longer than the last one, FB holds the last one. -/
theorem stageAll_append (b : List (Byte × Byte × List Byte)) (x : Byte × Byte × List Byte) (v : Vector Byte 34)
    (h : ∀ y ∈ b, y.2.2.length ≤ x.2.2.length) : stageAll (b ++ [x]) v = overlay (writeFrame x) v := by
  rw [stageAll, List.foldl_append, List.foldl_cons, List.foldl_nil]
  induction b generalizing v with
  | nil => rfl
  | cons y b ih =>
    rw [List.foldl_cons, ih _ (fun z hz => h z (by simp [hz])),
      overlay_absorb _ _ _ (by simpa [writeFrame] using h y (by simp))]

end Sys2Proof.Machine
end

