-- ==== Sys2Proof/Tests/Slice0.lean ====
section
/-! SUPPORT. The model's own tests. Expected values are those of spec/95_test_vectors.md, or worked out by hand from the
rule named; a witness shows a state and operands that meet all hypotheses of the statement it is named after. -/

namespace Sys2Proof.Tests

open Sys2Proof.Machine

/-! ### Helpers -/

/-- The default build on a tier. -/
def build (t : Tier) : Config := { Config.default with tier := t }

/-- What the transport puts into its read buffer: these bytes, then zeros. -/
def data (bs : List Byte) : Vector Byte 32 := overlay bs (Vector.replicate 32 0)

/-- An answer `Ok` that delivers these bytes first. -/
def ok (bs : List Byte) : BusAnswer := .ok (data bs)

/-- A transport's error. -/
def bad : TransportError := ⟨7⟩

/-- An answer `Err`. -/
def err : BusAnswer := .err bad

/-- An idle block at address 0x2E, with the answers and the delays to come. -/
def block (st : Lifecycle) (t : Tier) (bus : List BusAnswer) (delays : Nat) : State :=
  { State.reset with st := st, addr := 0x2E, cfg := build t, busIn := bus, delayIn := delays }

/-- The block with a packet offered on the command port. -/
def offered (bs : List Byte) (s : State) : State := { s with cmdIn := [⟨.command, bs, 0⟩] }

/-- A block with an operation in progress at the event `k`. -/
def running (i : Instr) (k : Nat) (s : State) : State := { s with current := some i, seq := k }

/-- What a test looks at: the lifecycle state, the result, the trace. -/
def seen : Host.Outcome State Fault Refusal → Option (Lifecycle × Option Result × List Event)
  | .next t => some (t.st, t.result, t.trace)
  | .fault _ => none
  | .refused _ => none

/-! ### WellFormed: one ill-formed term for each check -/

theorem test_wf_cmdReserved : (Instr.cmdReserved ⟨4, []⟩).wellFormed = false ∧ (Instr.cmdReserved ⟨5, []⟩).wellFormed = true := by decide
theorem test_wf_writeRegister : (Instr.writeRegister 0x0E 4 (List.replicate 32 0)).wellFormed = false ∧
    (Instr.writeRegister 0x0E 4 (List.replicate 31 0)).wellFormed = true := by decide
theorem test_wf_readRegister : (Instr.readRegister 0x10 0x10 33).wellFormed = false ∧
    (Instr.readRegister 0x10 0x10 32).wellFormed = true := by decide
theorem test_wf_keypadFifo : (Instr.keypadFifo 33).wellFormed = false ∧ (Instr.keypadFifo 32).wellFormed = true := by decide
theorem test_wf_evMalformed_sentinel : (Instr.evMalformed 0xFF).wellFormed = false := by decide
theorem test_wf_evMalformed_event : (Instr.evMalformed 0x6F).wellFormed = false ∧ (Instr.evMalformed 0x70).wellFormed = true := by decide
theorem test_wf_keyToWire : (Instr.keyToWire 16).wellFormed = false ∧ (Instr.keyToWire 15).wellFormed = true := by decide
theorem test_wf_keyFromWire : (Instr.keyFromWire 0x04).wellFormed = false ∧ (Instr.keyFromWire 0x1B).wellFormed = true := by decide

/-! ### Decoding: words written out from 30_encoding.md and 00_scope.md R7 -/

/-- The decoder of the default build. -/
def dec (p : Port) (bs : List Byte) (len : Nat) : Option Instr := (decode Config.default ⟨p, bs, len⟩).toOption

theorem test_decode_new : dec .command [0b00000000, 0b00101110] 0 = some (.new 0b0101110) := by decide
theorem test_decode_setLedColor : dec .command [0b00000001, 15, 16, 32, 48] 0 = some (.setLedColor 15 16 32 48) := by decide
theorem test_decode_showLed : dec .command [0b00000010] 0 = some .showLed := by decide
theorem test_decode_readKeyEvents : dec .command [0b00000011, 4] 0 = some (.readKeyEvents 4) := by decide
theorem test_decode_keypadCount : dec .command [0b00000100] 0 = some .keypadCount := by decide
theorem test_decode_cmdReserved : dec .command [0b00000101] 0 = some (.cmdReserved ⟨5, []⟩) ∧
    dec .command [0xFF, 0x01] 0 = some (.cmdReserved ⟨0xFF, [0x01]⟩) := by decide
theorem test_decode_writeRegister : dec .writeRegister [0x0E, 0x04, 0xA1, 0xA2, 0xA3, 0xA4, 0xA5] 0 =
    some (.writeRegister 0x0E 0x04 [0xA1, 0xA2, 0xA3, 0xA4, 0xA5]) := by decide
theorem test_decode_readRegister : dec .readRegister [0x10, 0x04] 1 = some (.readRegister 0x10 0x04 1) := by decide
theorem test_decode_swrst : dec .writeFrame [0b00000000, 0x7F, 0b11111111] 0 = some .swrst := by decide
theorem test_decode_hwId : dec .readFrame [0b00000000, 0x01] 1 = some .hwId := by decide
theorem test_decode_ledPin : dec .writeFrame [0b00001110, 0x01, 0b00000011] 0 = some .ledPin := by decide
theorem test_decode_ledBufLength : dec .writeFrame [0b00001110, 0x03, 0b00000000, 0b00110000] 0 = some .ledBufLength := by decide
theorem test_decode_ledBuf : dec .writeFrame [0b00001110, 0b00000100, 0x00, 0x0F, 2, 1, 3] 0 =
    some (.ledBuf 0x00 0x0F 2 1 3) := by decide
theorem test_decode_ledShow : dec .writeFrame [0b00001110, 0x05] 0 = some .ledShow := by decide
theorem test_decode_keypadEvent : dec .writeFrame [0b00010000, 0x01, 0b00010011, 0x09] 0 = some (.keypadEvent 2 3 9) := by decide
theorem test_decode_keypadCountReg : dec .readFrame [0b00010000, 0x04] 1 = some .keypadCountReg := by decide
theorem test_decode_keypadFifo : dec .readFrame [0b00010000, 0x10] 4 = some (.keypadFifo 4) := by decide
theorem test_decode_evEmpty : dec .eventByte [0b11111111] 0 = some .evEmpty := by decide
theorem test_decode_evHigh : dec .eventByte [0b00100000] 0 = some (.evHigh 1 0) := by decide
theorem test_decode_evLow : dec .eventByte [0b00001101] 0 = some (.evLow 0 3) := by decide
theorem test_decode_evFalling : dec .eventByte [0b01101110] 0 = some (.evFalling 3 3) := by decide
theorem test_decode_evRising : dec .eventByte [0b00100111] 0 = some (.evRising 1 1) := by decide
theorem test_decode_evMalformed : dec .eventByte [0b00010000] 0 = some (.evMalformed 0x10) ∧
    dec .eventByte [0xFE] 0 = some (.evMalformed 0xFE) := by decide
theorem test_decode_keyToWire : dec .keyToWire [0b00010011] 0 = some (.keyToWire 11) := by decide
theorem test_decode_keyFromWire : dec .keyFromWire [0b00011010] 0 = some (.keyFromWire 0x1A) := by decide
theorem test_decode_colorToWire : dec .colorToWire [2, 1, 3] 0 = some (.colorToWire 1 2 3) := by decide
theorem test_decode_eventDecode : dec .eventDecode [0x6E] 0 = some (.eventDecode 0x6E) := by decide

/-- 10_state.md R21: an address above 0x7F cannot be presented. -/
theorem test_reject_address : decode Config.default ⟨.command, [0x00, 0x80], 0⟩ = .error .addressTooWide := by decide
theorem test_reject_length : decode Config.default ⟨.command, [0x01, 5, 1, 2], 0⟩ = .error .wrongLength ∧
    decode Config.default ⟨.command, [], 0⟩ = .error .wrongLength := by decide
theorem test_reject_register : decode Config.default ⟨.writeFrame, [0x0F, 0x05], 0⟩ = .error .unknownRegister := by decide
theorem test_reject_frame : decode Config.default ⟨.writeFrame, [0x0E, 0x01, 0x04], 0⟩ = .error .neverEmitted ∧
    decode Config.default ⟨.writeFrame, [0x10, 0x01, 0x04, 0x02], 0⟩ = .error .neverEmitted := by decide
theorem test_reject_key : decode Config.default ⟨.keyToWire, [0x20], 0⟩ = .error .notKeyPattern := by decide

/-! ### Words of the opcode table, as decodeTableWord numbers them (log 13) -/

theorem test_table_commands : decodeTableWord 16 0x002E = some (.new 0x2E) ∧
    decodeTableWord 40 0x0105010203 = some (.setLedColor 5 1 2 3) ∧ decodeTableWord 8 0x02 = some .showLed ∧
    decodeTableWord 16 0x0304 = some (.readKeyEvents 4) ∧ decodeTableWord 8 0x04 = some .keypadCount := by decide
theorem test_table_write_frames : decodeTableWord 24 0x007FFF = some .swrst ∧ decodeTableWord 24 0x0E0103 = some .ledPin ∧
    decodeTableWord 32 0x0E030030 = some .ledBufLength ∧ decodeTableWord 16 0x0E05 = some .ledShow ∧
    decodeTableWord 56 0x0E0400000000FF = some (.ledBuf 0 0 0 0 0xFF) ∧
    decodeTableWord 32 0x10011B11 = some (.keypadEvent 3 3 0x11) := by decide
theorem test_table_read_frames : decodeTableWord 16 0x0001 = some .hwId ∧ decodeTableWord 16 0x1004 = some .keypadCountReg ∧
    decodeTableWord 16 0x1010 = some (.keypadFifo 0) := by decide
theorem test_table_event_bytes : decodeTableWord 8 0xFF = some .evEmpty ∧ decodeTableWord 8 0x00 = some (.evHigh 0 0) ∧
    decodeTableWord 8 0x01 = some (.evLow 0 0) ∧ decodeTableWord 8 0x06 = some (.evFalling 0 1) ∧
    decodeTableWord 8 0x03 = some (.evRising 0 0) ∧ decodeTableWord 8 0x10 = some (.evMalformed 0x10) := by decide
theorem test_table_color : decodeTableWord 24 0x020103 = some (.colorToWire 1 2 3) := by decide

/-! ### Codecs (95_test_vectors.md 2.1 to 2.3) -/

theorem test_color : colorToWire 1 2 3 = [2, 1, 3] ∧ colorToWire 0x10 0x20 0x30 = [0x20, 0x10, 0x30] := by decide
theorem test_keyToWire : (List.range 16).map (fun i => keyToWire (BitVec.ofNat 8 i)) =
    ([0, 1, 2, 3, 8, 9, 10, 11, 16, 17, 18, 19, 24, 25, 26, 27] : List Byte).map Except.ok := by decide
theorem test_keyToWire_range : keyToWire 16 = .error (.contractViolation .keyIndexRange) ∧
    keyToWire 255 = .error (.contractViolation .keyIndexRange) := by decide
theorem test_keyFromWire : keyFromWire 0x1B = some 15 ∧ keyFromWire 0x0A = some 6 := by decide
theorem test_inImage : inImage 0x04 = false ∧ inImage 0x07 = false ∧ inImage 0x1C = false ∧ inImage 0x20 = false ∧
    inImage 0x3F = false ∧ inImage 0x1B = true ∧ rawFromWire 0x1C = 12 ∧ rawFromWire 0x3F = 31 := by decide
theorem test_event_ok : eventDecode 0x00 = .ok (some ⟨0, .high⟩) ∧ eventDecode 0x0D = .ok (some ⟨3, .low⟩) ∧
    eventDecode 0x02 = .ok (some ⟨0, .falling⟩) ∧ eventDecode 0x43 = .ok (some ⟨8, .rising⟩) ∧
    eventDecode 0x6F = .ok (some ⟨15, .rising⟩) ∧ eventDecode 0xFF = .ok none := by decide
theorem test_event_malformed : ([0x10, 0x1F, 0x70, 0x7F, 0x80, 0xFC, 0xFD, 0xFE] : List Byte).map eventDecode =
    List.replicate 8 (.error (.decodeFault .malformedKey)) := by decide
theorem test_result_bytes : Result.encode (.ok (.slots [some ⟨5, .rising⟩, none, some ⟨15, .falling⟩])) =
    [0x00, 0x17, 0xFF, 0x3E] := by decide

/-! ### One operation (95_test_vectors.md 2.4 to 2.6) -/

theorem test_write_ok : seen (exec (.writeRegister 0x0E 0x04 [0xA1, 0xA2, 0xA3, 0xA4, 0xA5]) (block .ready .lite [ok []] 0)) =
    some (.ready, some (.ok .unit), [.tw 0x2E [0x0E, 0x04, 0xA1, 0xA2, 0xA3, 0xA4, 0xA5] .ok]) := by decide
theorem test_write_too_long : seen (exec (.writeRegister 0x0E 0x04 (List.replicate 32 0)) (block .ready .full [ok []] 0)) =
    some (.faulted, some (.err (.contractViolation .payloadTooLong)), []) := by decide
theorem test_read_full : seen (exec (.readRegister 0x10 0x04 1) (block .ready .full [ok [], ok [7]] 1)) =
    some (.ready, some (.ok (.bytes [7])), [.tw 0x2E [0x10, 0x04] .ok, .dly 6, .tr 0x2E 1 (.ok [7])]) := by decide
theorem test_read_lite : seen (exec (.readRegister 0x10 0x04 1) (block .ready .lite [ok [7]] 0)) =
    some (.ready, some (.ok (.bytes [7])), [.twr 0x2E [0x10, 0x04] 1 (.ok [7])]) := by decide
theorem test_swrst : seen (exec .swrst (block .uninitialized .full [ok []] 0)) =
    some (.uninitialized, some (.ok .unit), [.tw 0x2E [0x00, 0x7F, 0xFF] .ok]) := by decide
theorem test_hwId : seen (exec .hwId (block .uninitialized .full [ok [], ok [0x55]] 1)) =
    some (.uninitialized, some (.ok (.identity 0x55 true)), [.tw 0x2E [0x00, 0x01] .ok, .dly 6, .tr 0x2E 1 (.ok [0x55])]) := by
  decide
theorem test_ledPin : seen (exec .ledPin (block .ready .full [ok []] 0)) =
    some (.ready, some (.ok .unit), [.tw 0x2E [0x0E, 0x01, 0x03] .ok]) := by decide
theorem test_ledBufLength : seen (exec .ledBufLength (block .ready .full [ok []] 0)) =
    some (.ready, some (.ok .unit), [.tw 0x2E [0x0E, 0x03, 0x00, 0x30] .ok]) := by decide
theorem test_ledBuf : seen (exec (.ledBuf 0 0x2D 0x20 0x10 0x30) (block .ready .full [ok []] 0)) =
    some (.ready, some (.ok .unit), [.tw 0x2E [0x0E, 0x04, 0x00, 0x2D, 0x20, 0x10, 0x30] .ok]) := by decide
theorem test_ledShow : seen (exec .ledShow (block .ready .full [ok []] 0)) =
    some (.ready, some (.ok .unit), [.tw 0x2E [0x0E, 0x05] .ok]) := by decide
theorem test_keypadEvent : seen (exec (.keypadEvent 3 3 0x11) (block .ready .full [ok []] 0)) =
    some (.ready, some (.ok .unit), [.tw 0x2E [0x10, 0x01, 0x1B, 0x11] .ok]) := by decide
theorem test_keypadCountReg : seen (exec .keypadCountReg (block .ready .lite [ok [9]] 0)) =
    some (.ready, some (.ok (.byte 9)), [.twr 0x2E [0x10, 0x04] 1 (.ok [9])]) := by decide
theorem test_keypadFifo : seen (exec (.keypadFifo 2) (block .ready .full [ok [], ok [0x27, 0x10]] 1)) =
    some (.ready, some (.ok (.bytes [0x27, 0x10])), [.tw 0x2E [0x10, 0x10] .ok, .dly 6, .tr 0x2E 2 (.ok [0x27, 0x10])]) := by
  decide

theorem test_new_lite : seen (step (offered [0x00, 0x2E] (block .uninitialized .lite [ok [], ok []] 0))) =
    some (.ready, some (.ok .unit), [.tw 0x2E [0x0E, 0x01, 0x03] .ok, .tw 0x2E [0x0E, 0x03, 0x00, 0x30] .ok]) := by decide
theorem test_new_wrong_identity : seen (step (offered [0x00, 0x2E] (block .uninitialized .full [ok [], ok [], ok [0]] 2))) =
    some (.uninitialized, some (.err .wrongIdentity),
      [.tw 0x2E [0x00, 0x7F, 0xFF] .ok, .dly 500, .tw 0x2E [0x00, 0x01] .ok, .dly 6, .tr 0x2E 1 (.ok [0])]) := by decide
theorem test_new_body_length : (newBody (build .full)).length = 71 := by decide
theorem test_setLedColor : seen (exec (.setLedColor 15 0x10 0x20 0x30) (block .ready .full [ok []] 0)) =
    some (.ready, some (.ok .unit), [.tw 0x2E [0x0E, 0x04, 0x00, 0x2D, 0x20, 0x10, 0x30] .ok]) := by decide
theorem test_setLedColor_range : seen (exec (.setLedColor 16 1 2 3) (block .ready .full [ok []] 0)) =
    some (.faulted, some (.err (.contractViolation .ledIndexRange)), []) := by decide
theorem test_showLed_full : seen (exec .showLed (block .ready .full [ok []] 1)) =
    some (.ready, some (.ok .unit), [.tw 0x2E [0x0E, 0x05] .ok, .dly 8]) := by decide
theorem test_showLed_fault : seen (exec .showLed (block .ready .full [err] 1)) =
    some (.ready, some (.err (.writeFault bad)), [.tw 0x2E [0x0E, 0x05] (.err bad)]) := by decide
theorem test_readKeyEvents : seen (exec (.readKeyEvents 3) (block .ready .full [ok [], ok [0x02, 0xFF, 0x03]] 1)) =
    some (.ready, some (.ok (.slots [some ⟨0, .falling⟩, none, some ⟨0, .rising⟩])),
      [.tw 0x2E [0x10, 0x10] .ok, .dly 6, .tr 0x2E 3 (.ok [0x02, 0xFF, 0x03])]) := by decide
theorem test_readKeyEvents_malformed : seen (exec (.readKeyEvents 3) (block .ready .full [ok [], ok [0x24, 0x10, 0xFF]] 1)) =
    some (.faulted, some (.err (.decodeFault .malformedKey)),
      [.tw 0x2E [0x10, 0x10] .ok, .dly 6, .tr 0x2E 3 (.ok [0x24, 0x10, 0xFF])]) := by decide
theorem test_keypadCount : seen (exec .keypadCount (block .ready .full [ok [], ok [0xFF]] 1)) =
    some (.ready, some (.ok (.byte 255)), [.tw 0x2E [0x10, 0x04] .ok, .dly 6, .tr 0x2E 1 (.ok [0xFF])]) := by decide
theorem test_keypadCount_lite : seen (exec .keypadCount (block .ready .lite [ok [9]] 0)) =
    some (.faulted, some (.err (.contractViolation .unsupported)), []) := by decide
theorem test_cmdReserved : seen (exec (.cmdReserved ⟨0x80, []⟩) (block .ready .full [ok []] 0)) =
    some (.faulted, some (.err (.contractViolation .badCommand)), []) := by decide
theorem test_evRising : seen (exec (.evRising 1 1) (block .ready .full [] 0)) =
    some (.ready, some (.ok (.slot (some ⟨5, .rising⟩))), []) := by decide
theorem test_eventDecode_sentinel : seen (exec (.eventDecode 0xFF) (block .ready .full [] 0)) =
    some (.ready, some (.ok (.slot none)), []) := by decide
theorem test_keyFromWire_exec : seen (exec (.keyFromWire 0x13) (block .ready .full [] 0)) =
    some (.ready, some (.ok (.key 11)), []) := by decide

/-- 70_reset_and_hazards.md R249: with no answer the read waits at its event 2, the write and the delay done. -/
theorem test_waits : (match exec .keypadCount (block .ready .full [ok []] 1) with
    | .next t => (t.current, t.seq, t.trace, t.result)
    | _ => (none, 0, [], none)) = (some .keypadCount, 2, [.tw 0x2E [0x10, 0x04] .ok, .dly 6], none) := by decide
/-- ... and goes on when the answer comes. -/
theorem test_resumes : seen (step (running .keypadCount 2 (block .ready .full [ok [3]] 0))) =
    some (.ready, some (.ok (.byte 3)), [.tr 0x2E 1 (.ok [3])]) := by decide

/-- 60_exceptions.md R217: a reserved opcode on the command port, bytes after it or not. -/
theorem test_step_reserved : seen (step (offered [0x07, 0x01] (block .ready .full [] 0))) =
    some (.faulted, some (.err (.contractViolation .badCommand)), []) := by decide
/-- log 5: what is no word of the port goes by. -/
theorem test_step_no_word : step (offered [0x00, 0x80] (block .ready .full [] 0)) = .next (block .ready .full [] 0) := rfl
/-- 95_test_vectors.md 2.5: the second write of the Lite bring-up fails. -/
theorem test_new_write_fault : seen (exec (.new 0x2E) (block .uninitialized .lite [ok [], err] 0)) =
    some (.uninitialized, some (.err (.writeFault bad)),
      [.tw 0x2E [0x0E, 0x01, 0x03] .ok, .tw 0x2E [0x0E, 0x03, 0x00, 0x30] (.err bad)]) := by decide

/-! ### The first instruction after reset -/

theorem test_first_new : seen (step (State.reset.withFetchWord 16 0x002E)) = some (.uninitialized, none, []) ∧
    (match step (State.reset.withFetchWord 16 0x002E) with
      | .next t => (t.current, t.addr)
      | _ => (none, 0)) = (some (.new 0x2E), 0x2E) := by decide
theorem test_first_color : seen (step (State.reset.withFetchWord 24 0x020103)) =
    some (.uninitialized, some (.ok (.bytes [2, 1, 3])), []) := by decide
theorem test_first_show : seen (step (State.reset.withFetchWord 8 0x02)) =
    some (.faulted, some (.err (.contractViolation .badState)), []) := by decide
/-! ### Witnesses: the hypotheses of each statement hold together somewhere, one for each clause -/

/-- An idle Ready block, its next requests answered `Ok`. -/
def good (t : Tier) : State := block .ready t [ok [], ok [0x27, 0x6E]] 2

theorem witness_ResetInputAbandonsTheOperation :
    ({ running .keypadCount 2 (good .full) with resetIn := true } : State).resetIn = true := rfl

theorem witness_StepRunsTheDecodedInstruction :
    (offered [0x01, 15, 1, 2, 3] (good .full)).resetIn = false ∧ Idle (offered [0x01, 15, 1, 2, 3] (good .full)) ∧
      (offered [0x01, 15, 1, 2, 3] (good .full)).cmdIn = ⟨.command, [0x01, 15, 1, 2, 3], 0⟩ :: [] ∧
      decode (good .full).cfg ⟨.command, [0x01, 15, 1, 2, 3], 0⟩ = .ok (.setLedColor 15 1 2 3) :=
  ⟨rfl, rfl, rfl, by decide⟩

theorem witness_FetchWordRunsNext :
    decode State.reset.cfg (tablePacket State.reset.cfg 16 0x0E05) = .ok .ledShow := by decide

theorem witness_UnpresentablePacketGoesBy :
    (offered [0x00, 0x80] (good .full)).resetIn = false ∧ Idle (offered [0x00, 0x80] (good .full)) ∧
      (offered [0x00, 0x80] (good .full)).cmdIn = ⟨.command, [0x00, 0x80], 0⟩ :: [] ∧
      decode (good .full).cfg ⟨.command, [0x00, 0x80], 0⟩ = .error .addressTooWide ∧ 0x7F < (0x80 : Byte).toNat :=
  ⟨rfl, rfl, rfl, by decide, by decide⟩

theorem witness_BusyBlockTakesNoInstruction : (running .showLed 1 (good .full)).current = some .showLed := rfl

theorem witness_UnansweredRequestHoldsTheBlock_delay :
    (running .showLed 1 (block .ready .full [] 0)).resetIn = false ∧
      (running .showLed 1 (block .ready .full [] 0)).current = some .showLed ∧
      outstanding (running .showLed 1 (block .ready .full [] 0)) = some (.dly 8) ∧
      (running .showLed 1 (block .ready .full [] 0)).delayIn = 0 := ⟨rfl, rfl, by decide, rfl⟩

theorem witness_UnansweredRequestHoldsTheBlock_bus :
    (running .keypadCount 2 (block .ready .full [] 0)).resetIn = false ∧
      (running .keypadCount 2 (block .ready .full [] 0)).current = some .keypadCount ∧
      outstanding (running .keypadCount 2 (block .ready .full [] 0)) = some (.tr 1 none) ∧
      (∀ ms, Act.tr 1 none ≠ .dly ms) ∧ (∀ k, Act.tr 1 none ≠ .raise k) ∧
      (running .keypadCount 2 (block .ready .full [] 0)).busIn = [] :=
  ⟨rfl, rfl, by decide, by simp, by simp, rfl⟩

/-- A step that gives a next state. -/
theorem witness_StepOnlyTakesInputsInOrder : ∃ t, step (offered [0x04] (good .full)) = .next t := ⟨_, rfl⟩

theorem witness_EventGrainAgreesWithCommandGrain_start : Idle (good .full) ∧ Allowed .keypadCount (good .full) :=
  ⟨rfl, rfl, rfl⟩

theorem witness_EventGrainAgreesWithCommandGrain : (running .keypadCount 1 (good .full)).current = some .keypadCount := rfl

theorem witness_DecodeOfEncodeIsTheInstruction :
    Config.default.distinct = true ∧ (Instr.keypadFifo 32).wellFormed = true ∧ (Instr.new 0x7F).wellFormed = true := by
  decide

theorem witness_EncodeOfDecodeIsThePacket :
    decode Config.default ⟨.keyToWire, [0x1B], 0⟩ = .ok (.keyToWire 15) := by decide

theorem witness_DecodedIsWellFormedOrOutOfRange :
    decode Config.default ⟨.writeRegister, 0x0E :: 0x04 :: List.replicate 32 0, 0⟩ =
        .ok (.writeRegister 0x0E 0x04 (List.replicate 32 0)) ∧
      decode Config.default ⟨.readRegister, [0x10, 0x10], 33⟩ = .ok (.readRegister 0x10 0x10 33) ∧
      decode Config.default ⟨.readFrame, [0x10, 0x10], 33⟩ = .ok (.keypadFifo 33) ∧
      decode Config.default ⟨.command, [0x05], 0⟩ = .ok (.cmdReserved ⟨5, []⟩) ∧
      decode Config.default ⟨.keyFromWire, [0x20], 0⟩ = .ok (.keyFromWire 0x20) := by decide

/-- An idle block. -/
theorem witness_ColorGoesOutGreenRedBlue : Idle (good .full) := rfl

theorem witness_KeyToWireFollowsTheFormula : Idle (good .full) ∧ (15 : Byte).toNat < 16 ∧ 16 ≤ (16 : Byte).toNat :=
  ⟨rfl, by decide, by decide⟩

theorem witness_KeyFromWireFollowsTheFormula :
    Idle (good .full) ∧ (0x1B : Byte) &&& 0xE4 = 0 ∧ (0x20 : Byte) &&& 0xE4 ≠ 0 := ⟨rfl, by decide, by decide⟩

theorem witness_KeyRoundTrip : keyFromWire 0x1B = some 15 := by decide

theorem witness_EventDecodeOfEveryByte :
    Idle (good .full) ∧ (0x70 : Byte) ≠ 0xFF ∧ (0x70 : Byte) &&& 0x90 ≠ 0 ∧ (0x6F : Byte) ≠ 0xFF ∧
      (0x6F : Byte) &&& 0x90 = 0 := ⟨rfl, by decide, by decide, by decide, by decide⟩

theorem witness_EventByteClassesHaveTheirValue : Idle (good .full) ∧ (Instr.evMalformed 0xFE).wellFormed = true :=
  ⟨rfl, by decide⟩

theorem witness_WriteRegisterIsOneFrame :
    Idle (block .ready .lite [ok []] 0) ∧ (List.replicate 31 (0 : Byte)).length < 32 ∧
      (block .ready .lite [ok []] 0).busIn = .ok (data []) :: [] := ⟨rfl, by decide, rfl⟩

theorem witness_WriteRegisterIsOneFrame_fault :
    Idle (block .ready .full [err] 0) ∧ ([] : List Byte).length < 32 ∧ (block .ready .full [err] 0).busIn = .err bad :: [] :=
  ⟨rfl, by decide, rfl⟩

theorem witness_WriteRegisterIsOneFrame_tooLong :
    Idle (block .faulted .full [] 0) ∧ 32 ≤ (List.replicate 32 (0 : Byte)).length := ⟨rfl, by decide⟩

theorem witness_ReadRegisterFullTier :
    Idle (good .full) ∧ (good .full).cfg.tier = .full ∧ 32 ≤ 32 ∧
      (good .full).busIn = .ok (data []) :: .ok (data [0x27, 0x6E]) :: [] ∧ (good .full).delayIn = 1 + 1 :=
  ⟨rfl, rfl, by decide, rfl, rfl⟩

theorem witness_ReadRegisterFullTier_writeFault :
    Idle (block .ready .full [err] 0) ∧ (block .ready .full [err] 0).cfg.tier = .full ∧ 0 ≤ 32 ∧
      (block .ready .full [err] 0).busIn = .err bad :: [] := ⟨rfl, rfl, by decide, rfl⟩

theorem witness_ReadRegisterFullTier_readFault :
    Idle (block .ready .full [ok [], err] 1) ∧ (block .ready .full [ok [], err] 1).cfg.tier = .full ∧ 1 ≤ 32 ∧
      (block .ready .full [ok [], err] 1).busIn = .ok (data []) :: .err bad :: [] ∧
      (block .ready .full [ok [], err] 1).delayIn = 0 + 1 := ⟨rfl, rfl, by decide, rfl, rfl⟩

theorem witness_ReadRegister_tooLong :
    Idle (good .full) ∧ (good .full).cfg.tier = .full ∧ Idle (good .lite) ∧ (good .lite).cfg.tier = .lite ∧ 32 < 33 :=
  ⟨rfl, rfl, rfl, rfl, by decide⟩

theorem witness_ReadRegisterLiteTier :
    Idle (block .ready .lite [ok [7]] 0) ∧ (block .ready .lite [ok [7]] 0).cfg.tier = .lite ∧ 32 ≤ 32 ∧
      (block .ready .lite [ok [7]] 0).busIn = .ok (data [7]) :: [] := ⟨rfl, rfl, by decide, rfl⟩

theorem witness_ReadRegisterLiteTier_fault :
    Idle (block .ready .lite [err] 0) ∧ (block .ready .lite [err] 0).cfg.tier = .lite ∧ 32 ≤ 32 ∧
      (block .ready .lite [err] 0).busIn = .err bad :: [] := ⟨rfl, rfl, by decide, rfl⟩

theorem witness_TiersReadTheSame :
    Idle (block .ready .full [ok [], ok [7]] 1) ∧ Idle (block .ready .lite [ok [7]] 0) ∧
      (block .ready .full [ok [], ok [7]] 1).cfg.tier = .full ∧ (block .ready .lite [ok [7]] 0).cfg.tier = .lite ∧
      32 ≤ 32 ∧ (block .ready .full [ok [], ok [7]] 1).busIn = .ok (data []) :: ok [7] :: [] ∧
      0 < (block .ready .full [ok [], ok [7]] 1).delayIn ∧ (block .ready .lite [ok [7]] 0).busIn = ok [7] :: [] :=
  ⟨rfl, rfl, rfl, rfl, by decide, rfl, by decide, rfl⟩

theorem witness_NamedWriteFramesAreSent :
    Idle (block .uninitialized .full [ok []] 0) ∧ (block .uninitialized .full [ok []] 0).busIn = .ok (data []) :: [] :=
  ⟨rfl, rfl⟩

theorem witness_NamedReadFramesFullTier :
    Idle (good .full) ∧ (good .full).cfg.tier = .full ∧
      (good .full).busIn = .ok (data []) :: .ok (data [0x27, 0x6E]) :: [] ∧ (good .full).delayIn = 1 + 1 ∧ 32 ≤ 32 :=
  ⟨rfl, rfl, rfl, rfl, by decide⟩

theorem witness_NamedReadFrames_tooLong :
    Idle (good .full) ∧ (good .full).cfg.tier = .full ∧ Idle (good .lite) ∧ (good .lite).cfg.tier = .lite ∧ 32 < 33 :=
  ⟨rfl, rfl, rfl, rfl, by decide⟩

theorem witness_NamedReadFramesLiteTier :
    Idle (block .ready .lite [ok [7]] 0) ∧ (block .ready .lite [ok [7]] 0).cfg.tier = .lite ∧
      (block .ready .lite [ok [7]] 0).busIn = .ok (data [7]) :: [] ∧ 32 ≤ 32 := ⟨rfl, rfl, rfl, by decide⟩

theorem witness_FailingWriteRaisesWriteFault :
    Idle (block .ready .full [err] 1) ∧ Allowed .showLed (block .ready .full [err] 1) ∧
      writeFrameOf (build .full) .showLed = some [0x0E, 0x05] ∧ (block .ready .full [err] 1).busIn = .err bad :: [] :=
  ⟨rfl, rfl, by decide, rfl⟩

theorem witness_FailingReadRaisesTheHalfsFault_write :
    Idle (block .ready .full [err] 1) ∧ Allowed (.readKeyEvents 32) (block .ready .full [err] 1) ∧
      readOf (build .full) (.readKeyEvents 32) = some (0x10, 0x10, 32) ∧ 32 ≤ 32 ∧
      (block .ready .full [err] 1).cfg.tier = .full ∧ (block .ready .full [err] 1).busIn = .err bad :: [] :=
  ⟨rfl, ⟨rfl, rfl⟩, by decide, by decide, rfl, rfl⟩

theorem witness_FailingReadRaisesTheHalfsFault_read :
    Idle (block .ready .full [ok [], err] 1) ∧ Allowed .keypadCount (block .ready .full [ok [], err] 1) ∧
      readOf (build .full) .keypadCount = some (0x10, 0x04, 1) ∧ 1 ≤ 32 ∧
      (block .ready .full [ok [], err] 1).cfg.tier = .full ∧
      (block .ready .full [ok [], err] 1).busIn = .ok (data []) :: .err bad :: [] ∧
      (block .ready .full [ok [], err] 1).delayIn = 0 + 1 := ⟨rfl, ⟨rfl, rfl⟩, by decide, by decide, rfl, rfl, rfl⟩

theorem witness_FailingReadRaisesTheHalfsFault_lite :
    Idle (block .uninitialized .lite [err] 0) ∧ Allowed .hwId (block .uninitialized .lite [err] 0) ∧
      readOf (build .lite) .hwId = some (0x00, 0x01, 1) ∧ 1 ≤ 32 ∧ (block .uninitialized .lite [err] 0).cfg.tier = .lite ∧
      (block .uninitialized .lite [err] 0).busIn = .err bad :: [] := ⟨rfl, trivial, by decide, by decide, rfl, rfl⟩

theorem witness_RefusedCommandsFollowTheMatrix :
    Idle (good .lite) ∧ refusalReason (good .lite).cfg.tier (good .lite).st .keypadCount = some .unsupported ∧
      refusalReason (good .lite).cfg.tier (good .lite).st (.new 0x7F) = some .badState ∧
      refusalReason .full .uninitialized .showLed = some .badState ∧ refusalReason .full .faulted .showLed = some .faulted :=
  ⟨rfl, by decide, by decide, by decide, by decide⟩

theorem witness_ReservedOpcodeRaisesBadCommand :
    5 ≤ (5 : Byte).toNat ∧ Idle (good .full) ∧ (good .full).st ≠ .faulted ∧ Idle (block .faulted .full [] 0) ∧
      (block .faulted .full [] 0).st = .faulted := ⟨by decide, rfl, by decide, rfl, rfl⟩

/-- An idle block before bring-up, with the identity byte given and `k` further answers. -/
def fresh (id : Byte) (k : Nat) : State :=
  block .uninitialized .full (.ok (data []) :: .ok (data []) :: .ok (data [id]) :: (List.replicate k (data [])).map .ok) 2

theorem witness_BringUpFullTierCompletes :
    Idle (fresh 0x55 66) ∧ (fresh 0x55 66).st = .uninitialized ∧ (fresh 0x55 66).cfg.tier = .full ∧
      (data [0x55])[0] = (fresh 0x55 66).cfg.hwIdCode ∧ (List.replicate 66 (data [])).length = 66 ∧
      (fresh 0x55 66).busIn = .ok (data []) :: .ok (data []) :: .ok (data [0x55]) ::
        ((List.replicate 66 (data [])).map BusAnswer.ok ++ []) ∧ (fresh 0x55 66).delayIn = 0 + 2 :=
  ⟨rfl, rfl, rfl, by decide, rfl, by simp [fresh, block], rfl⟩

/-- The last write of the Full bring-up fails: event 71 of 44_bringup.md R178, `10 01 1B 11`. -/
def lastFails : State :=
  block .uninitialized .full
    (([data [], data [], data [0x55]] ++ List.replicate 65 (data [])).map .ok ++ [err]) 2

theorem witness_FailingWriteStopsBringUp_last :
    Idle lastFails ∧ lastFails.st = .uninitialized ∧
      newTrace lastFails.cfg 0x2E = (bringUpTrace (build .full) 0x2E).take 70 ++ .tw 0x2E [0x10, 0x01, 0x1B, 0x11] .ok :: [] ∧
      ([data [], data [], data [0x55]] ++ List.replicate 65 (data [])).length =
        ((bringUpTrace (build .full) 0x2E).take 70).countP (fun ev => !ev.isDelay) ∧
      (∀ d, ([data [], data [], data [0x55]] ++ List.replicate 65 (data []))[2]? = some d → d[0] = lastFails.cfg.hwIdCode) ∧
      lastFails.busIn = ([data [], data [], data [0x55]] ++ List.replicate 65 (data [])).map BusAnswer.ok ++ .err bad :: [] ∧
      lastFails.delayIn = 0 + ((bringUpTrace (build .full) 0x2E).take 70).countP Event.isDelay :=
  ⟨rfl, rfl, by rfl, by rfl, fun d h => by obtain rfl : data [0x55] = d := Option.some.inj h; decide, rfl, by rfl⟩

theorem witness_FailingWriteStopsBringUp_first :
    Idle (block .uninitialized .lite [err] 0) ∧ (block .uninitialized .lite [err] 0).st = .uninitialized ∧
      newTrace (build .lite) 0x2E = [] ++ .tw 0x2E [0x0E, 0x01, 0x03] .ok :: [.tw 0x2E [0x0E, 0x03, 0x00, 0x30] .ok] ∧
      ([] : List (Vector Byte 32)).length = ([] : List Event).countP (fun ev => !ev.isDelay) ∧
      (∀ d, ([] : List (Vector Byte 32))[2]? = some d → d[0] = (build .lite).hwIdCode) ∧
      (block .uninitialized .lite [err] 0).busIn = [].map BusAnswer.ok ++ .err bad :: [] ∧
      (block .uninitialized .lite [err] 0).delayIn = 0 + ([] : List Event).countP Event.isDelay :=
  ⟨rfl, rfl, rfl, rfl, fun d h => by simp at h, rfl, rfl⟩

theorem witness_FailingIdentityReadStopsBringUp :
    Idle (block .uninitialized .full [ok [], ok [], err] 2) ∧
      (block .uninitialized .full [ok [], ok [], err] 2).st = .uninitialized ∧
      (block .uninitialized .full [ok [], ok [], err] 2).cfg.tier = .full ∧
      (block .uninitialized .full [ok [], ok [], err] 2).busIn = .ok (data []) :: .ok (data []) :: .err bad :: [] ∧
      (block .uninitialized .full [ok [], ok [], err] 2).delayIn = 0 + 2 := ⟨rfl, rfl, rfl, rfl, rfl⟩

theorem witness_BringUpLiteTierCompletes :
    Idle (block .uninitialized .lite [ok [], ok []] 0) ∧ (block .uninitialized .lite [ok [], ok []] 0).st = .uninitialized ∧
      (block .uninitialized .lite [ok [], ok []] 0).cfg.tier = .lite ∧
      (block .uninitialized .lite [ok [], ok []] 0).busIn = .ok (data []) :: .ok (data []) :: [] := ⟨rfl, rfl, rfl, rfl⟩

theorem witness_WrongIdentityStopsBringUp :
    Idle (fresh 0x54 0) ∧ (fresh 0x54 0).st = .uninitialized ∧ (fresh 0x54 0).cfg.tier = .full ∧
      (data [0x54])[0] ≠ (fresh 0x54 0).cfg.hwIdCode ∧
      (fresh 0x54 0).busIn = .ok (data []) :: .ok (data []) :: .ok (data [0x54]) :: [] ∧ (fresh 0x54 0).delayIn = 0 + 2 :=
  ⟨rfl, rfl, rfl, by decide, rfl, rfl⟩

theorem witness_FailedBringUpStaysUninitialized :
    ∃ t, Idle (block .uninitialized .lite [ok [], err] 0) ∧ (block .uninitialized .lite [ok [], err] 0).st = .uninitialized ∧
      exec (.new 0x7F) (block .uninitialized .lite [ok [], err] 0) = .next t ∧ Idle t ∧ t.result ≠ some (.ok .unit) :=
  ⟨_, rfl, rfl, rfl, rfl, by decide⟩

theorem witness_SetLedColorWritesThePixel :
    Idle (block .ready .full [ok []] 0) ∧ (block .ready .full [ok []] 0).st = .ready ∧ (15 : Byte).toNat < 16 ∧
      (block .ready .full [ok []] 0).busIn = .ok (data []) :: [] := ⟨rfl, rfl, by decide, rfl⟩

theorem witness_LedIndexOutOfRangeIsRefused :
    Idle (good .full) ∧ (good .full).st = .ready ∧ 16 ≤ (16 : Byte).toNat := ⟨rfl, rfl, by decide⟩

theorem witness_ShowLedWritesAndSettles :
    Idle (block .ready .full [ok []] 1) ∧ (block .ready .full [ok []] 1).st = .ready ∧
      (block .ready .full [ok []] 1).busIn = .ok (data []) :: [] ∧ (block .ready .full [ok []] 1).cfg.tier = .full ∧
      (block .ready .full [ok []] 1).delayIn = 0 + 1 := ⟨rfl, rfl, rfl, rfl, rfl⟩

theorem witness_ShowLedWritesAndSettles_lite :
    Idle (block .ready .lite [ok []] 0) ∧ (block .ready .lite [ok []] 0).st = .ready ∧
      (block .ready .lite [ok []] 0).busIn = .ok (data []) :: [] ∧ (block .ready .lite [ok []] 0).cfg.tier = .lite :=
  ⟨rfl, rfl, rfl, rfl⟩

theorem witness_ReadKeyEventsReturnsTheSlots :
    Idle (good .full) ∧ (good .full).st = .ready ∧ (good .full).cfg.tier = .full ∧ (32 : Byte).toNat ≤ 32 ∧
      (good .full).busIn = .ok (data []) :: .ok (data [0x27, 0x6E]) :: [] ∧ (good .full).delayIn = 1 + 1 ∧
      ∀ b ∈ (data [0x27, 0x6E]).toList.take (32 : Byte).toNat, wellFormedEvent b = true :=
  ⟨rfl, rfl, rfl, by decide, rfl, rfl, by decide⟩

theorem witness_MalformedEventByteFaults :
    Idle (block .ready .full [ok [], ok [0x24, 0x10]] 1) ∧ (block .ready .full [ok [], ok [0x24, 0x10]] 1).st = .ready ∧
      (block .ready .full [ok [], ok [0x24, 0x10]] 1).cfg.tier = .full ∧ (2 : Byte).toNat ≤ 32 ∧
      (block .ready .full [ok [], ok [0x24, 0x10]] 1).busIn = .ok (data []) :: .ok (data [0x24, 0x10]) :: [] ∧
      (block .ready .full [ok [], ok [0x24, 0x10]] 1).delayIn = 0 + 1 ∧
      ∃ b ∈ (data [0x24, 0x10]).toList.take (2 : Byte).toNat, wellFormedEvent b = false :=
  ⟨rfl, rfl, rfl, by decide, rfl, rfl, 0x10, by decide, by decide⟩

theorem witness_TooManySlotsAreRefused :
    Idle (good .full) ∧ (good .full).st = .ready ∧ (good .full).cfg.tier = .full ∧ 32 < (33 : Byte).toNat :=
  ⟨rfl, rfl, rfl, by decide⟩

theorem witness_KeypadCountReturnsTheByte :
    Idle (good .full) ∧ (good .full).st = .ready ∧ (good .full).cfg.tier = .full ∧
      (good .full).busIn = .ok (data []) :: .ok (data [0x27, 0x6E]) :: [] ∧ (good .full).delayIn = 1 + 1 :=
  ⟨rfl, rfl, rfl, rfl, rfl⟩

theorem witness_FrameOfEveryInstruction :
    (∃ t, exec (.ledBuf 0 45 1 2 3) (good .full) = .next t) ∧ readOf (good .full).cfg (.ledBuf 0 45 1 2 3) = none ∧
      (∀ a, Instr.ledBuf 0 45 1 2 3 ≠ .new a) ∧ (∃ t, exec (.eventDecode 0x10) (good .full) = .next t) ∧
      (Instr.eventDecode 0x10).isCodec = true := ⟨⟨_, rfl⟩, rfl, by simp, ⟨_, rfl⟩, rfl⟩

/-- An idle block at the start of its sequencer meets RunInv. -/
theorem runInv_of_idle {s : State} (hc : s.current = none) (hs : s.seq = 0) : RunInv s :=
  ⟨fun _ => hs, fun i h => by simp [hc] at h, fun i h => by simp [hc] at h, fun a h => by simp [hc] at h⟩

theorem witness_LifecycleTransitions_ready :
    ∃ t, RunInv (offered [0x00, 0x7F] (block .uninitialized .lite [ok [], ok []] 0)) ∧
      step (offered [0x00, 0x7F] (block .uninitialized .lite [ok [], ok []] 0)) = .next t ∧ t.st = .ready :=
  ⟨_, runInv_of_idle rfl rfl, rfl, by decide⟩

theorem witness_LifecycleTransitions_faulted :
    ∃ t, RunInv (offered [0x05] (good .full)) ∧ step (offered [0x05] (good .full)) = .next t ∧ t.st = .faulted :=
  ⟨_, runInv_of_idle rfl rfl, rfl, by decide⟩

theorem witness_LifecycleTransitions_reset :
    ∃ t, RunInv ({ block .faulted .full [] 0 with resetIn := true } : State) ∧
      step ({ block .faulted .full [] 0 with resetIn := true } : State) = .next t ∧ t.st = .uninitialized :=
  ⟨_, runInv_of_idle rfl rfl, rfl, rfl⟩

theorem witness_AddressIsFixedWhileReady :
    ∃ t, (offered [0x00, 0x01] (good .full)).st = .ready ∧ (offered [0x00, 0x01] (good .full)).resetIn = false ∧
      step (offered [0x00, 0x01] (good .full)) = .next t := ⟨_, rfl, rfl, rfl⟩

/-- The third outcome, a body that waits at its event 2; the other two are test_keypadCount and test_showLed_fault, and
the refusal is test_setLedColor_range. -/
theorem witness_TraceIsAPrefixOfTheBody :
    ∃ t, Idle (block .ready .full [ok []] 1) ∧ exec .keypadCount (block .ready .full [ok []] 1) = .next t ∧ t.seq = 2 :=
  ⟨_, rfl, rfl, by decide⟩

theorem witness_CommandsEmitOnlyTheListedFrames :
    ∃ t, Instr.keypadCount.isCommand = true ∧ Idle (good .full) ∧ exec .keypadCount (good .full) = .next t ∧
      Event.dly 6 ∈ t.trace.drop (good .full).trace.length := ⟨_, rfl, rfl, rfl, by decide⟩

theorem witness_TierFixesTheTransactions :
    (∃ t, step (offered [0x04] (good .full)) = .next t ∧ Event.dly 6 ∈ t.trace.drop (offered [0x04] (good .full)).trace.length ∧
      (offered [0x04] (good .full)).cfg.tier = .full) ∧
    ∃ t, step (offered [0x02] (good .lite)) = .next t ∧
      Event.tw 0x2E [0x0E, 0x05] .ok ∈ t.trace.drop (offered [0x02] (good .lite)).trace.length ∧
      (offered [0x02] (good .lite)).cfg.tier = .lite := ⟨⟨_, rfl, by decide, rfl⟩, ⟨_, rfl, by decide, rfl⟩⟩

theorem witness_ReadyCommandsAreIndependent :
    ∃ t₁ t₂, Instr.showLed.isCommand = true ∧ Idle (good .full) ∧
      Idle ({ good .full with fb := Vector.replicate 34 9, result := some (.ok .unit), trace := [.dly 8] } : State) ∧
      exec .showLed (good .full) = .next t₁ ∧
      exec .showLed ({ good .full with fb := Vector.replicate 34 9, result := some (.ok .unit), trace := [.dly 8] } : State) =
        .next t₂ ∧ (good .full).st = .ready ∧ Idle t₁ := ⟨_, _, rfl, rfl, rfl, rfl, rfl, rfl, rfl⟩

/-- A running operation that meets RunInv: KEYPAD_COUNT at its read. -/
theorem witness_StepKeepsTheRunningOperationLegal :
    ∃ t, RunInv (running .keypadCount 2 (good .full)) ∧ step (running .keypadCount 2 (good .full)) = .next t := by
  refine ⟨_, ⟨fun h => by simp [running] at h, fun i h => ?_, fun i h => ?_, fun a h => by simp [running] at h⟩, rfl⟩
  · obtain rfl : Instr.keypadCount = i := Option.some.inj h
    exact ⟨.tr 1 none, by decide, by simp⟩
  · obtain rfl : Instr.keypadCount = i := Option.some.inj h
    exact ⟨rfl, rfl⟩

/-- The first two events of KEYPAD_COUNT done. -/
def atRead : State :=
  { running .keypadCount 2 (good .full) with trace := [.tw 0x2E [0x10, 0x04] .ok, .dly 6] }

theorem witness_StepKeepsReadsSettled : ∃ t, SettleInv atRead ∧ step atRead = .next t := by
  refine ⟨_, ⟨fun i h => ?_, fun k a n ans h => ?_⟩, rfl⟩
  · obtain rfl : Instr.keypadCount = i := Option.some.inj h
    exact ⟨[], _, rfl, .cons (by decide) (.cons (by decide) .nil)⟩
  · rcases k with _ | _ | k <;> simp [atRead] at h

/-- A Lite block brought up: Ready, with its two configuration writes in the trace. -/
def broughtUp : State :=
  { offered [0x02] (good .lite) with trace := [.tw 0x2E [0x0E, 0x01, 0x03] .ok, .tw 0x2E [0x0E, 0x03, 0x00, 0x30] .ok] }

theorem witness_StepKeepsTheReadyPromise : ∃ t, ReadyInv broughtUp ∧ broughtUp.st = .ready ∧ step broughtUp = .next t := by
  refine ⟨_, ⟨fun i h => by simp [broughtUp, offered, good, block, State.reset] at h, fun _ => ?_⟩, rfl, rfl⟩
  exact ⟨[], broughtUp.trace, [], by simp, .cons (by decide) (.cons (by decide) .nil)⟩

/-- The reference chip with a cleared strip and three pending events. -/
def chip : RefChip := ⟨Vector.replicate 48 0, Vector.replicate 48 0, [0x02, 0x03, 0x6E], (0, 0)⟩

theorem witness_SetLedColorPaintsTheReferenceChip :
    Idle (good .full) ∧ (good .full).st = .ready ∧ (15 : Byte).toNat < 16 := ⟨rfl, rfl, by decide⟩

theorem witness_ReadKeyEventsDrainsTheReferenceChip :
    Idle (good .full) ∧ (good .full).st = .ready ∧ (good .full).cfg.tier = .full ∧ (good .full).cfg.distinct = true ∧
      (4 : Byte).toNat ≤ 32 ∧ ∀ b ∈ chip.fifo.take (4 : Byte).toNat, wellFormedEvent b = true :=
  ⟨rfl, rfl, rfl, by decide, by decide, by decide⟩

/-- 95_test_vectors.md P2: the third slot is key 15 Falling, the fourth empty. -/
theorem test_chip_fifo : seen (exec (.readKeyEvents 4) ((good .full).against chip (.readKeyEvents 4))) =
    some (.ready, some (.ok (.slots [some ⟨0, .falling⟩, some ⟨0, .rising⟩, some ⟨15, .falling⟩, none])),
      [.tw 0x2E [0x10, 0x10] .ok, .dly 6, .tr 0x2E 4 (.ok [0x02, 0x03, 0x6E, 0xFF])]) := by decide

/-- 95_test_vectors.md P1: pixel 15 is green 20, red 10, blue 30. -/
theorem test_chip_pixel : (RefChip.after (build .full) (.setLedColor 15 0x10 0x20 0x30) chip).pix.toList.drop 45 =
    [0x20, 0x10, 0x30] := by decide

end Sys2Proof.Tests
end

section
/-! PROOFS. The equations of a step of a block at rest, and the statement about the packet at the front. -/

namespace Sys2Proof.Machine

/-- With no reset asserted and nothing in progress, a step turns to the packets offered (60_exceptions.md R232). -/
theorem step_of_idle {s : State} (hr : s.resetIn = false) (hi : Idle s) : step s = takeNext exec s := by
  have hc : s.current = none := hi
  simp [step, stepWith, hr, hc]

/-- A packet at the front that decodes is taken, and its instruction is run on the state without it. -/
theorem takeNext_of_decode_ok {run : Instr → State → Host.Outcome State Fault Refusal} {s : State} {p : Packet}
    {rest : List Packet} {i : Instr} (hq : s.cmdIn = p :: rest) (hd : decode s.cfg p = .ok i) :
    takeNext run s = run i { s with cmdIn := rest } := by
  simp [takeNext, hq, hd]

/-- Settles O3: an idle block turns to its queue, and the packet at the front decodes. -/
theorem stepRunsTheDecodedInstruction : Obligations.StepRunsTheDecodedInstruction := by
  intro s p rest i hr hi hq hd
  calc step s = takeNext exec s := step_of_idle hr hi
    _ = exec i { s with cmdIn := rest } := takeNext_of_decode_ok hq hd

end Sys2Proof.Machine
end

section
/-! PROOFS. What a run of acts keeps, whatever it comes to: one relation carried along the run, and from it what the
run of an operation and an instruction leave unchanged. -/

namespace Sys2Proof.Machine

/-! ### A relation carried along a run -/

/-- The state an act leaves, whatever it came to. -/
def Verdict.state : Verdict → State
  | .done s => s
  | .raised _ s => s
  | .waiting s => s

/-- A transitive relation that every act of a body, the raising of an error and the body's end respect relates the
two ends of the run. -/
theorem runActs_rel {R : State → State → Prop} (htrans : ∀ {s t u}, R s t → R t u → R s u)
    (hraise : ∀ k s, R s (s.raise k)) {fin : State → State} (hfin : ∀ s, R s (fin s)) {acts : List Act}
    (hact : ∀ a ∈ acts, ∀ s, R s (perform a s).state) (s : State) : R s (runActs fin acts s) := by
  induction acts generalizing s with
  | nil => exact hfin s
  | cons a rest ih =>
    have h1 : R s (perform a s).state := hact a (by simp) s
    cases hp : perform a s with
    | done s' =>
      rw [runActs_cons_done hp]
      rw [hp] at h1
      exact htrans h1 (ih (fun b hb => hact b (by simp [hb])) s')
    | raised k s' =>
      rw [runActs_cons_raised hp]
      rw [hp] at h1
      exact htrans h1 (hraise k s')
    | waiting s' =>
      rw [runActs_cons_waiting hp]
      rwa [hp] at h1

/-! ### The build, the inputs and the trace -/

/-- `t` comes after `s` on the same channels: the build, the packets offered, the reset input and its counter are the
same, answers and delays were only taken and events only added (00_scope.md R19, 20_memory.md R70). -/
structure Flows (s t : State) : Prop where
  cfg : t.cfg = s.cfg
  cmdIn : t.cmdIn = s.cmdIn
  resetIn : t.resetIn = s.resetIn
  epoch : t.epoch = s.epoch
  trace : s.trace <+: t.trace
  busIn : t.busIn <:+ s.busIn
  delayIn : t.delayIn ≤ s.delayIn

/-- `Flows`, and the address is the same too (10_state.md R21). -/
structure Kept (s t : State) : Prop extends Flows s t where
  addr : t.addr = s.addr

theorem Flows.refl (s : State) : Flows s s :=
  ⟨rfl, rfl, rfl, rfl, List.prefix_refl _, List.suffix_refl _, Nat.le_refl _⟩

theorem Flows.trans {s t u : State} (h : Flows s t) (g : Flows t u) : Flows s u :=
  ⟨g.cfg.trans h.cfg, g.cmdIn.trans h.cmdIn, g.resetIn.trans h.resetIn, g.epoch.trans h.epoch, h.trace.trans g.trace,
    g.busIn.trans h.busIn, Nat.le_trans g.delayIn h.delayIn⟩

theorem Kept.refl (s : State) : Kept s s := ⟨Flows.refl s, rfl⟩

theorem Kept.trans {s t u : State} (h : Kept s t) (g : Kept t u) : Kept s u :=
  ⟨h.toFlows.trans g.toFlows, g.addr.trans h.addr⟩

theorem Goes.kept {a : Act} {s t : State} (g : Goes a s t) : Kept s t := by
  obtain ⟨e, he, -⟩ := g.trace
  exact ⟨⟨g.cfg, g.cmdIn, g.resetIn, g.epoch, ⟨[e], he.symm⟩, g.busIn, g.delayIn⟩, g.addr⟩

theorem Stops.kept {es : List Event} {s t : State} (h : Stops es s t) : Kept s t :=
  ⟨⟨h.cfg, h.cmdIn, h.resetIn, h.epoch, ⟨es, h.trace.symm⟩, h.busIn, h.delayIn.le⟩, h.addr⟩

theorem Ends.kept {i : Instr} {s t : State} (h : Ends i s t) : Kept s t :=
  ⟨⟨h.cfg, h.cmdIn, h.resetIn, h.epoch, ⟨[], by simp [h.trace]⟩, ⟨[], by simp [h.busIn]⟩, h.delayIn.le⟩, h.addr⟩

theorem raise_kept (k : ErrKind) (s : State) : Kept s (s.raise k) :=
  ⟨⟨rfl, rfl, rfl, rfl, List.prefix_refl _, List.suffix_refl _, Nat.le_refl _⟩, rfl⟩

theorem fb_update_kept (s : State) (v : Vector Byte Config.frameBufCap) : Kept s { s with fb := v } :=
  ⟨⟨rfl, rfl, rfl, rfl, List.prefix_refl _, List.suffix_refl _, Nat.le_refl _⟩, rfl⟩

theorem perform_kept {a : Act} (hf : a.Fits) (s : State) : Kept s (perform a s).state := by
  cases hp : perform a s with
  | done t => exact (perform_done hf hp).kept
  | raised k t =>
    obtain ⟨es, hs, -⟩ := perform_raised hf hp
    exact hs.kept
  | waiting t =>
    obtain ⟨ht, -, -⟩ := perform_waiting hp
    have hk : Kept s { s with fb := t.fb } := fb_update_kept s t.fb
    rwa [← ht] at hk

/-- An operation taken up again, NEW too, keeps the address and only takes and adds. -/
theorem resume_kept (i : Instr) (s : State) : Kept s (resume i s) :=
  runActs_rel (R := Kept) Kept.trans raise_kept (fun s => (finishOf_ends i s).kept)
    (fun a ha => perform_kept (bodyOf_fits s.cfg i a (List.mem_of_mem_drop ha))) s

theorem startState_flows (i : Instr) (s : State) : Flows s (startState i s) := by
  rw [startState_eq]
  exact ⟨rfl, rfl, rfl, rfl, List.prefix_refl _, List.suffix_refl _, Nat.le_refl _⟩

/-! ### An instruction and its next state -/

/-- Everything a next state of an instruction can be: the same one while another runs, the refusal of an idle block's
command, or what the run of the body from its start comes to. -/
theorem exec_next_cases {i : Instr} {s t : State} (h : exec i s = .next t) :
    (∃ j, s.current = some j ∧ t = s) ∨
    (s.current = none ∧ i.isCommand = true ∧ ∃ why, t = s.raise (.contractViolation why)) ∨
    (s.current = none ∧ Allowed i s ∧ t = resume i (startState i s)) := by
  rcases exec_cases i s with ⟨j, hj, he⟩ | ⟨hn, hc, why, he⟩ | ⟨hn, ha, he⟩ <;>
    rw [he, Host.Outcome.next.injEq] at h
  · exact .inl ⟨j, hj, h.symm⟩
  · exact .inr (.inl ⟨hn, hc, why, h.symm⟩)
  · exact .inr (.inr ⟨hn, ha, by rw [← h, run_startState]⟩)

theorem exec_flows {i : Instr} {s t : State} (h : exec i s = .next t) : Flows s t := by
  rcases exec_next_cases h with ⟨-, -, rfl⟩ | ⟨hn, -, why, rfl⟩ | ⟨hn, ha, rfl⟩
  · exact Flows.refl _
  · exact (raise_kept _ s).toFlows
  · exact (startState_flows i s).trans (resume_kept i _).toFlows

/-- Only a NEW that its check lets run, from Uninitialized, changes the address (44_bringup.md R175). -/
theorem exec_addr {i : Instr} {s t : State} (h : exec i s = .next t)
    (hi : s.st ≠ .uninitialized ∨ ∀ a, i ≠ .new a) : t.addr = s.addr := by
  rcases exec_next_cases h with ⟨-, -, rfl⟩ | ⟨hn, -, why, rfl⟩ | ⟨hn, ha, rfl⟩
  · rfl
  · rfl
  · have hnew : ∀ a, i ≠ .new a := hi.elim (fun hst a hia => hst (by subst hia; exact ha)) id
    exact (resume_kept i _).addr.trans (startState_addr hnew s)

end Sys2Proof.Machine
end

section
/-! PROOFS. Every step keeps the running operation at a request of its body and allowed by its checks. -/

namespace Sys2Proof.Machine

/-- A block at rest, at the start of its sequencer, has no running operation to speak of. -/
theorem RunInv.of_idle {s : State} (hc : s.current = none) (hs : s.seq = 0) : RunInv s where
  idle _ := hs
  atRequest i h := by simp [hc] at h
  allowed i h := by simp [hc] at h
  address a h := by simp [hc] at h

/-- The checks of an instruction read the lifecycle state and the build only (60_exceptions.md R225). -/
theorem allowed_of_same {i : Instr} {s t : State} (hst : t.st = s.st) (hcfg : t.cfg = s.cfg) (h : Allowed i s) :
    Allowed i t := by
  have htier (ht : s.cfg.tier = .full) : t.cfg.tier = .full := by rw [hcfg, ht]
  cases i
  case new | showLed => exact hst.trans h
  case setLedColor => exact h.imp_left hst.trans
  case readKeyEvents | keypadCount => exact h.imp hst.trans htier
  all_goals exact h

/-- An operation its checks allow ends, or waits at a request of its body: an act that waits raises nothing. -/
theorem resume_runInv {i : Instr} {s : State} (hc : s.current = some i) (ha : Allowed i s)
    (haddr : ∀ a, i = .new a → s.addr = a) : RunInv (resume i s) := by
  rcases resume_cases i s with ⟨s', -, he⟩ | ⟨pre, a, post, s', k, s'', -, -, -, -, he⟩ |
    ⟨pre, a, post, s', s'', hbody, hw, -, hp, he⟩ <;> rw [he]
  · exact .of_idle (finishOf_ends i s').current (finishOf_ends i s').seq
  · exact .of_idle rfl rfl
  · obtain ⟨hs'', -, -⟩ := perform_waiting hp
    have hcur : s''.current = some i := by rw [hs'']; exact hw.current.trans hc
    have hat : (bodyOf s.cfg i)[s.seq + pre.length]? = some a := by
      rw [← List.getElem?_drop, hbody]; simp
    have hnr : ∀ k, a ≠ .raise k := by
      rintro k rfl
      simp [perform_raise] at hp
    refine ⟨fun h => by simp [hcur] at h, fun j hj => ?_, fun j hj => ?_, fun b hb => ?_⟩
    · obtain rfl : i = j := Option.some.inj (hcur.symm.trans hj)
      have hseq : s''.seq = s.seq + pre.length := by rw [hs'']; exact hw.seq
      have hcfg : s''.cfg = s.cfg := by rw [hs'']; exact hw.cfg
      exact ⟨a, by rw [hcfg, hseq, hat], hnr⟩
    · obtain rfl : i = j := Option.some.inj (hcur.symm.trans hj)
      exact allowed_of_same (by rw [hs'']; exact hw.st) (by rw [hs'']; exact hw.cfg) ha
    · have hi : i = .new b := Option.some.inj (hcur.symm.trans hb)
      have hadr : s''.addr = s.addr := by rw [hs'']; exact hw.addr
      exact hadr.trans (haddr b hi)

theorem exec_runInv {i : Instr} {s t : State} (hinv : RunInv s) (h : exec i s = .next t) : RunInv t := by
  rcases exec_next_cases h with ⟨-, -, rfl⟩ | ⟨hn, -, why, rfl⟩ | ⟨hn, ha, rfl⟩
  · exact hinv
  · exact .of_idle rfl rfl
  · refine resume_runInv (startState_current i s) (allowed_of_same ?_ (startState_flows i s).cfg ha) ?_
    · rw [startState_eq]
    · rintro a rfl
      rfl

/-- Settles O54: the reset and the end of an operation leave the block at rest; a running one, or one just taken,
stops only where it ends or where a request waits. -/
theorem stepKeepsTheRunningOperationLegal : Obligations.StepKeepsTheRunningOperationLegal := by
  intro s t hinv h
  rcases step_cases s with ⟨-, he⟩ | ⟨-, i, hi, he⟩ | ⟨-, hn, -, he⟩ | ⟨-, hn, p, rest, why, -, -, he⟩ |
    ⟨-, hn, p, rest, i, -, -, he⟩ <;> rw [he] at h
  · cases h
    exact .of_idle rfl rfl
  · cases h
    exact resume_runInv hi (hinv.allowed i hi) (fun a ha => hinv.address a (ha ▸ hi))
  · cases h
    exact hinv
  · cases h
    exact .of_idle hn (hinv.idle hn)
  · exact exec_runInv (s := { s with cmdIn := rest }) (.of_idle hn (hinv.idle hn)) h

end Sys2Proof.Machine
end

section
/-! PROOFS. What a step does to the inputs and to the address. -/

namespace Sys2Proof.Machine

/-- Settles O9: a packet leaves its queue only on a block at rest, and the rest is the frame of a run. -/
theorem stepOnlyTakesInputsInOrder : Obligations.StepOnlyTakesInputsInOrder := by
  intro s t h
  rcases step_cases s with ⟨-, he⟩ | ⟨-, i, -, he⟩ | ⟨-, -, -, he⟩ | ⟨hr, hn, p, rest, why, hq, -, he⟩ |
    ⟨hr, hn, p, rest, i, hq, -, he⟩ <;> rw [he] at h
  · cases h
    exact ⟨rfl, List.prefix_refl _, List.suffix_refl _, Nat.le_refl _, .inl rfl⟩
  · cases h
    have f := (resume_kept i s).toFlows
    exact ⟨f.cfg, f.trace, f.busIn, f.delayIn, .inl f.cmdIn⟩
  · cases h
    exact ⟨rfl, List.prefix_refl _, List.suffix_refl _, Nat.le_refl _, .inl rfl⟩
  · cases h
    exact ⟨rfl, List.prefix_refl _, List.suffix_refl _, Nat.le_refl _, .inr ⟨hn, hr, p, hq⟩⟩
  · have f := exec_flows h
    exact ⟨f.cfg, f.trace, f.busIn, f.delayIn, .inr ⟨hn, hr, p, by rw [f.cmdIn, hq]⟩⟩

/-- Settles O48: an operation under way keeps the address, and Ready is no state a NEW runs from. -/
theorem addressIsFixedWhileReady : Obligations.AddressIsFixedWhileReady := by
  intro s t hst hr h
  rcases step_cases s with ⟨hr', -⟩ | ⟨-, i, -, he⟩ | ⟨-, -, -, he⟩ | ⟨-, -, p, rest, why, -, -, he⟩ |
    ⟨-, -, p, rest, i, -, -, he⟩
  · simp [hr] at hr'
  · rw [he] at h
    cases h
    exact (resume_kept i s).addr
  · rw [he] at h
    cases h
    rfl
  · rw [he] at h
    cases h
    rfl
  · rw [he] at h
    exact exec_addr (s := { s with cmdIn := rest }) h (.inl (by simp [hst]))

end Sys2Proof.Machine
end

section
/-! PROOFS. The machine one event at a time comes to the same as the machine one command at a time (decision D24). -/

namespace Sys2Proof.Machine

/-! ### One event -/

theorem eventStep_idle {s : State} (h : s.current = none) : eventStep s = s := by
  simp [eventStep, h]

theorem eventStep_end {i : Instr} {s : State} (hc : s.current = some i) (h : (bodyOf s.cfg i)[s.seq]? = none) :
    eventStep s = finishOf i s := by
  simp [eventStep, hc, h]

theorem eventStep_done {i : Instr} {a : Act} {s t : State} (hc : s.current = some i)
    (h : (bodyOf s.cfg i)[s.seq]? = some a) (hp : perform a s = .done t) : eventStep s = t := by
  simp [eventStep, hc, h, hp]

theorem eventStep_raised {i : Instr} {a : Act} {s t : State} {k : ErrKind} (hc : s.current = some i)
    (h : (bodyOf s.cfg i)[s.seq]? = some a) (hp : perform a s = .raised k t) : eventStep s = t.raise k := by
  simp [eventStep, hc, h, hp]

theorem eventStep_waiting {i : Instr} {a : Act} {s t : State} (hc : s.current = some i)
    (h : (bodyOf s.cfg i)[s.seq]? = some a) (hp : perform a s = .waiting t) : eventStep s = t := by
  simp [eventStep, hc, h, hp]

/-- A state that waits at an event stays as it is, however often the event is tried. -/
theorem eventStep_of_waiting {i : Instr} {a : Act} {s t : State} (hc : s.current = some i)
    (h : (bodyOf s.cfg i)[s.seq]? = some a) (hp : perform a s = .waiting t) : eventStep t = t := by
  obtain ⟨ht, hp', -⟩ := perform_waiting hp
  refine eventStep_waiting (i := i) (a := a) ?_ ?_ hp'
  · rw [ht]; exact hc
  · rw [ht]; exact h

/-! ### As many events as are left -/

/-- What one event leads to a state that further events leave alone, any number of events leads to. -/
theorem eventStep_iterate_of_fixed {s t : State} (h : eventStep s = t) (ht : eventStep t = t) (n : Nat) :
    Nat.iterate eventStep (n + 1) s = t := by
  rw [Function.iterate_succ_apply, h, Function.iterate_fixed ht]

/-- The run of what is left of a body is that many single events and the end; more change nothing. -/
theorem runActs_eq_iterate {i : Instr} {acts : List Act} {s : State} {n : Nat} (hc : s.current = some i)
    (hd : (bodyOf s.cfg i).drop s.seq = acts) (hn : acts.length ≤ n) :
    runActs (finishOf i) acts s = Nat.iterate eventStep (n + 1) s := by
  induction acts generalizing s n with
  | nil =>
    have hat : (bodyOf s.cfg i)[s.seq]? = none := by simpa using hd
    exact (eventStep_iterate_of_fixed (eventStep_end hc hat) (eventStep_idle (finishOf_ends i s).current) n).symm
  | cons a rest ih =>
    have hat : (bodyOf s.cfg i)[s.seq]? = some a := by
      rw [← Nat.add_zero s.seq, ← List.getElem?_drop, hd]; rfl
    cases hp : perform a s with
    | done t =>
      have g := perform_done (bodyOf_fits s.cfg i a (List.mem_of_getElem? hat)) hp
      have hd' : (bodyOf t.cfg i).drop t.seq = rest := by
        rw [g.cfg, g.seq, ← List.drop_drop, hd]; rfl
      obtain ⟨m, rfl⟩ : ∃ m, n = m + 1 := ⟨n - 1, by simp at hn; omega⟩
      rw [runActs_cons_done hp, Function.iterate_succ_apply, eventStep_done hc hat hp]
      exact ih (g.current.trans hc) hd' (by simpa using hn)
    | raised k t =>
      rw [runActs_cons_raised hp]
      exact (eventStep_iterate_of_fixed (eventStep_raised hc hat hp) (eventStep_idle rfl) n).symm
    | waiting t =>
      rw [runActs_cons_waiting hp]
      exact (eventStep_iterate_of_fixed (eventStep_waiting hc hat hp) (eventStep_of_waiting hc hat hp) n).symm

/-- An operation taken up again is as many single events as its whole body has, and its end. -/
theorem resume_eq_iterate {i : Instr} {s : State} (hc : s.current = some i) :
    resume i s = Nat.iterate eventStep ((bodyOf s.cfg i).length + 1) s :=
  runActs_eq_iterate hc rfl (by simp)

/-- Settles O10: an allowed instruction is its operation taken up at the first event. -/
theorem eventGrainAgreesWithCommandGrain : Obligations.EventGrainAgreesWithCommandGrain := by
  refine ⟨fun i s hi ha => ?_, fun s i hc => resume_eq_iterate hc⟩
  rw [exec_allowed hi ha, run_startState, resume_eq_iterate (startState_current i s), (startState_flows i s).cfg]

end Sys2Proof.Machine
end

section
/-! PROOFS. What every instruction leaves unchanged: the buffers by what its body is made of, `st` by how it ends. -/

namespace Sys2Proof.Machine

/-! ### The buffers -/

/-- Whether an act reads into RB. -/
def Act.isRead : Act → Bool
  | .tr _ _ => true
  | .twr _ _ _ => true
  | .tw _ _ _ => false
  | .dly _ => false
  | .raise _ => false

theorem perform_rb {a : Act} (ha : a.isRead = false) (s : State) : (perform a s).state.rb = s.rb := by
  cases a with
  | tw m r p =>
    simp only [perform]
    split <;> rfl
  | tr n x => simp [Act.isRead] at ha
  | twr m r n => simp [Act.isRead] at ha
  | dly ms =>
    simp only [perform]
    split <;> rfl
  | raise k => rfl

theorem writeRegisterActs_isRead (m r : Byte) (p : List Byte) : ∀ a ∈ writeRegisterActs m r p, a.isRead = false := by
  unfold writeRegisterActs
  split <;> simp [Act.isRead]

/-- But for NEW, an instruction without a read sequence has no read in its body. -/
theorem bodyOf_isRead {c : Config} {i : Instr} (hnew : ∀ a, i ≠ .new a) (hr : readOf c i = none) :
    ∀ a ∈ bodyOf c i, a.isRead = false := by
  cases i
  case new a => exact absurd rfl (hnew a)
  case showLed =>
    intro a ha
    rcases List.mem_append.1 ha with h | h
    · exact writeRegisterActs_isRead _ _ _ a h
    · split at h <;> simp at h
      subst h; rfl
  case readKeyEvents | keypadCount | readRegister | hwId | keypadCountReg | keypadFifo => simp [readOf] at hr
  case setLedColor | writeRegister | swrst | ledPin | ledBufLength | ledBuf | ledShow | keypadEvent =>
    simp only [bodyOf, setLedColorBody, swrstBody, ledPinBody, ledBufLengthBody, ledBufBody, ledShowBody,
      keypadEventBody, keypadEventActs]
    exact writeRegisterActs_isRead _ _ _
  case cmdReserved => simp [bodyOf, Act.isRead]
  all_goals simp [bodyOf]

/-- But for NEW, an instruction without a read sequence and without a frame makes no request: its body can only raise. -/
theorem bodyOf_only_raises {c : Config} {i : Instr} (hnew : ∀ a, i ≠ .new a) (hr : readOf c i = none)
    (hw : writeFrameOf c i = none) : ∀ a ∈ bodyOf c i, ∃ k, a = .raise k := by
  cases i
  case new a => exact absurd rfl (hnew a)
  case readKeyEvents | keypadCount | readRegister | hwId | keypadCountReg | keypadFifo => simp [readOf] at hr
  case setLedColor | showLed | swrst | ledPin | ledBufLength | ledBuf | ledShow | keypadEvent =>
    simp [writeFrameOf] at hw
  case writeRegister m r p =>
    have hp : 32 ≤ p.length := by simpa [writeFrameOf] using hw
    simp [bodyOf, writeRegisterActs_long hp]
  case cmdReserved => simp [bodyOf]
  all_goals simp [bodyOf]

theorem exec_rb {i : Instr} {s t : State} (h : exec i s = .next t) (hnew : ∀ a, i ≠ .new a)
    (hr : readOf s.cfg i = none) : t.rb = s.rb := by
  rcases exec_next_cases h with ⟨-, -, rfl⟩ | ⟨hn, -, why, rfl⟩ | ⟨hn, ha, rfl⟩
  · rfl
  · rfl
  · rw [← run_startState, runActs_rel (R := fun s t => t.rb = s.rb) (fun h g => g.trans h) (fun _ _ => rfl)
      (fun s' => (finishOf_ends i s').rb) (fun a ha => perform_rb (bodyOf_isRead hnew hr a ha)), startState_eq]

theorem exec_fb {i : Instr} {s t : State} (h : exec i s = .next t) (hnew : ∀ a, i ≠ .new a)
    (hr : readOf s.cfg i = none) (hw : writeFrameOf s.cfg i = none) : t.fb = s.fb := by
  have hact : ∀ a ∈ bodyOf s.cfg i, ∀ s', (perform a s').state.fb = s'.fb := by
    intro a ha s'
    obtain ⟨k, rfl⟩ := bodyOf_only_raises hnew hr hw a ha
    rfl
  rcases exec_next_cases h with ⟨-, -, rfl⟩ | ⟨hn, -, why, rfl⟩ | ⟨hn, ha, rfl⟩
  · rfl
  · rfl
  · rw [← run_startState, runActs_rel (R := fun s t => t.fb = s.fb) (fun h g => g.trans h) (fun _ _ => rfl)
      (fun s' => (finishOf_ends i s').fb) hact, startState_eq]

/-! ### The lifecycle state -/

/-- `st` is the same, or the block is Faulted with a fail-fast error as its result (60_exceptions.md R216). -/
def KeepsOrFaults (s t : State) : Prop :=
  t.st = s.st ∨ t.st = .faulted ∧ ∃ k, t.result = some (.err k) ∧ k.failFast = true

theorem raise_keepsOrFaults {s s' : State} (k : ErrKind) (h : s'.st = s.st) : KeepsOrFaults s (s'.raise k) := by
  cases hk : k.failFast with
  | true => exact .inr ⟨by simp [hk], k, rfl, hk⟩
  | false => exact .inl (by simp [hk, h])

theorem Ends.keepsOrFaults {i : Instr} {s s' t : State} (he : Ends i s' t) (hnew : ∀ a, i ≠ .new a)
    (h : s'.st = s.st) : KeepsOrFaults s t := by
  rcases he.st with ⟨hst, -⟩ | hf | ⟨-, -, a, ha⟩
  · exact .inl (hst.trans h)
  · exact .inr hf
  · exact absurd ha (hnew a)

theorem resume_keepsOrFaults {i : Instr} (hnew : ∀ a, i ≠ .new a) (s : State) : KeepsOrFaults s (resume i s) := by
  rcases resume_cases i s with ⟨s', hw, he⟩ | ⟨pre, a, post, s', k, s'', -, hw, hf, hp, he⟩ |
    ⟨pre, a, post, s', s'', -, hw, -, hp, he⟩ <;> rw [he]
  · exact (finishOf_ends i s').keepsOrFaults hnew hw.st
  · obtain ⟨es, hs, -⟩ := perform_raised hf hp
    exact raise_keepsOrFaults k (hs.st.trans hw.st)
  · obtain ⟨hs'', -, -⟩ := perform_waiting hp
    exact .inl (by rw [hs'']; exact hw.st)

theorem exec_keepsOrFaults {i : Instr} {s t : State} (h : exec i s = .next t) (hnew : ∀ a, i ≠ .new a) :
    KeepsOrFaults s t := by
  rcases exec_next_cases h with ⟨-, -, rfl⟩ | ⟨hn, -, why, rfl⟩ | ⟨hn, ha, rfl⟩
  · exact .inl rfl
  · exact raise_keepsOrFaults _ rfl
  · have hst : (startState i s).st = s.st := by rw [startState_eq]
    have hk := resume_keepsOrFaults hnew (startState i s)
    rwa [KeepsOrFaults, hst] at hk

/-! ### Instructions without a request -/

/-- All but `result`, `seq`, `st` and what no instruction changes is the same. -/
structure Untouched (s t : State) : Prop where
  fb : t.fb = s.fb
  rb : t.rb = s.rb
  addr : t.addr = s.addr
  busIn : t.busIn = s.busIn
  delayIn : t.delayIn = s.delayIn
  trace : t.trace = s.trace
  current : t.current = s.current

theorem bodyOf_codec {i : Instr} (h : i.isCodec = true) (c : Config) : bodyOf c i = [] := by
  cases i
  case evEmpty | evHigh | evLow | evFalling | evRising | evMalformed | keyToWire | keyFromWire | colorToWire |
      eventDecode => rfl
  all_goals simp [Instr.isCodec] at h

theorem raise_untouched {s : State} (hn : s.current = none) (k : ErrKind) : Untouched s (s.raise k) :=
  ⟨rfl, rfl, rfl, rfl, rfl, rfl, hn.symm⟩

/-- The end of an operation as soon as it has begun. -/
theorem Ends.untouched {i : Instr} {s t : State} (he : Ends i (startState i s) t) (hnew : ∀ a, i ≠ .new a)
    (hn : s.current = none) : Untouched s t := by
  have haddr := startState_addr hnew s
  rw [startState_eq] at he
  exact ⟨he.fb, he.rb, he.addr.trans haddr, he.busIn, he.delayIn, he.trace, he.current.trans hn.symm⟩

theorem exec_untouched {i : Instr} {s t : State} (h : exec i s = .next t)
    (hi : i.isCodec = true ∨ ∃ x, i = .cmdReserved x) : Untouched s t := by
  rcases exec_next_cases h with ⟨-, -, rfl⟩ | ⟨hn, -, why, rfl⟩ | ⟨hn, ha, rfl⟩
  · exact ⟨rfl, rfl, rfl, rfl, rfl, rfl, rfl⟩
  · exact raise_untouched hn _
  · rcases hi with hi | ⟨x, rfl⟩
    · have hnew : ∀ a, i ≠ .new a := by
        rintro a rfl
        simp [Instr.isCodec] at hi
      rw [← run_startState, bodyOf_codec hi, runActs]
      exact (finishOf_ends i _).untouched hnew hn
    · exact ha.elim

/-- Settles O46: the frame of a run, and for each register the acts that can change it. -/
theorem frameOfEveryInstruction : Obligations.FrameOfEveryInstruction := by
  intro i s t h
  have f := exec_flows h
  refine ⟨f.cfg, f.cmdIn, f.resetIn, f.epoch, f.trace, f.busIn, f.delayIn, fun hnew => exec_addr h (.inr hnew),
    exec_rb h, exec_fb h, exec_keepsOrFaults h, fun hi => ?_⟩
  have u := exec_untouched h hi
  exact ⟨u.fb, u.rb, u.addr, u.busIn, u.delayIn, u.trace, u.current⟩

end Sys2Proof.Machine
end

section
/-! PROOFS. The block after reset, and the packet that is no word of its port. -/

namespace Sys2Proof.Machine

/-- Settles O1: the fields are the reset values, and with nothing offered the step waits. -/
theorem resetIsUninitializedAndWaits : Obligations.ResetIsUninitializedAndWaits := by
  refine ⟨rfl, rfl, rfl, rfl, rfl, ?_⟩
  rw [step_of_idle (s := State.reset) rfl rfl]
  rfl

/-- A packet at the front that is no word of its port goes by. -/
theorem takeNext_of_decode_error {run : Instr → State → Host.Outcome State Fault Refusal} {s : State} {p : Packet}
    {rest : List Packet} {why : Reject} (hq : s.cmdIn = p :: rest) (hd : decode s.cfg p = .error why) :
    takeNext run s = .next { s with cmdIn := rest } := by
  simp [takeNext, hq, hd]

/-- An address byte above 0x7F has its bit 7 set. -/
theorem address_msb_of_large {b : Byte} (h : 0x7F < b.toNat) : b.msb = true := by
  rw [BitVec.msb_eq_decide, decide_eq_true_eq]
  exact h

/-- Settles O5: an idle block turns to its queue, whose front does not decode; bit 7 of an address byte rejects it. -/
theorem unpresentablePacketGoesBy : Obligations.UnpresentablePacketGoesBy := by
  refine ⟨fun s p rest why hr hi hq hd => ?_, fun c b hb => ?_⟩
  · rw [step_of_idle hr hi, takeNext_of_decode_error hq hd]
  · simp [decode, decodeCommand, address_msb_of_large hb]

/-- With nothing in progress no event is in flight. -/
theorem inFlight_of_idle {s : State} (h : s.current = none) : InFlight s := by
  intro i hi
  simp [h] at hi

/-- Settles O53: nothing is in progress after reset, the trace is empty, and the block is not Ready. -/
theorem invariantsHoldAtReset : Obligations.InvariantsHoldAtReset := by
  have hf : InFlight State.reset := inFlight_of_idle rfl
  have hsettled : SettledReads State.reset.trace := fun k a n ans h => by simp [State.reset] at h
  have hready : State.reset.st ≠ .ready := by simp [State.reset]
  exact ⟨.of_idle rfl rfl, ⟨hf, hsettled⟩, ⟨hf, fun h => absurd h hready⟩⟩

end Sys2Proof.Machine
end

section
/-! PROOFS. What the bodies are made of. -/

namespace Sys2Proof.Machine

/-- An arming write is one of the 64 of bring-up (44_bringup.md R177). -/
theorem mem_armAllActs {c : Config} {act : Act} (h : act ∈ armAllActs c) :
    ∃ w ∈ packedKeys, ∃ mask ∈ ([0x02, 0x04, 0x09, 0x11] : List Byte), act = .tw 0x10 c.regKeypadEvent [w, mask] := by
  rw [armAllActs_eq] at h
  obtain ⟨w, hw, hact⟩ := List.mem_flatMap.1 h
  exact ⟨w, hw, by simpa using hact⟩

/-- A body is that of NEW or SHOW_LED, one call of a primitive, or makes no request. -/
theorem bodyOf_cases (c : Config) (i : Instr) :
    (∃ a, i = .new a) ∨ i = .showLed ∨ (∃ m r p, bodyOf c i = writeRegisterActs m r p) ∨
      (∃ m r n, bodyOf c i = readRegisterActs c m r n none) ∨ ∀ act ∈ bodyOf c i, ∃ k, act = .raise k := by
  cases i
  case new a => exact .inl ⟨a, rfl⟩
  case showLed => exact .inr (.inl rfl)
  case setLedColor | writeRegister | swrst | ledPin | ledBufLength | ledBuf | ledShow | keypadEvent =>
    simp only [bodyOf, setLedColorBody, swrstBody, ledPinBody, ledBufLengthBody, ledBufBody, ledShowBody,
      keypadEventBody, keypadEventActs]
    exact .inr (.inr (.inl ⟨_, _, _, rfl⟩))
  case readKeyEvents | keypadCount | readRegister | hwId | keypadCountReg | keypadFifo =>
    simp only [bodyOf, readKeyEventsBody, keypadCountBody, hwIdBody, keypadCountRegBody, keypadFifoBody]
    exact .inr (.inr (.inr (.inl ⟨_, _, _, rfl⟩)))
  all_goals exact .inr (.inr (.inr (.inr (by simp [bodyOf]))))

end Sys2Proof.Machine
end

section
/-! PROOFS. What one act adds to the trace, and so what a run of acts, an instruction and a step add. -/

namespace Sys2Proof.Machine

/-- The event is the request of an act with some answer, or its delay. -/
def Event.IsOf (a : DevAddr) (e : Event) : Act → Prop
  | .tw m r p => ∃ ans, e = .tw a (m :: r :: p) ans
  | .tr n _ => ∃ ans, e = .tr a n ans
  | .twr m r n => ∃ ans, e = .twr a [m, r] n ans
  | .dly ms => e = .dly ms
  | .raise _ => False

/-- A write that went well, to its address, of its frame. -/
theorem Event.isOkOf_tw {a : DevAddr} {m r : Byte} {p : List Byte} {e : Event}
    (h : Event.isOkOf a (.tw m r p) e = true) : e = .tw a (m :: r :: p) .ok := by
  cases e with
  | tw a' x ans => cases ans <;> simp_all [Event.isOkOf]
  | tr | twr | dly => simp [Event.isOkOf] at h

theorem Event.isOkOf_dly {a : DevAddr} {ms : BitVec 32} {e : Event} (h : Event.isOkOf a (.dly ms) e = true) :
    e = .dly ms := by
  cases e with
  | dly ms' => simpa [Event.isOkOf] using h
  | tw | tr | twr => simp [Event.isOkOf] at h

/-- The event of an act answered `Ok` is one of its events. -/
theorem Event.isOf_of_isOkOf {a : DevAddr} {act : Act} {e : Event} (h : Event.isOkOf a act e = true) :
    e.IsOf a act := by
  cases act with
  | tw m r p => exact ⟨.ok, Event.isOkOf_tw h⟩
  | dly ms => exact Event.isOkOf_dly h
  | tr n x =>
    cases e with
    | tr a' n' ans => cases ans <;> cases x <;> simp_all [Event.isOkOf, Event.IsOf]
    | tw | twr | dly => cases x <;> simp [Event.isOkOf] at h
  | twr m r n =>
    cases e with
    | twr a' x' n' ans => cases ans <;> simp_all [Event.isOkOf, Event.IsOf]
    | tw | tr | dly => simp [Event.isOkOf] at h
  | raise k => cases e <;> simp [Event.isOkOf] at h

/-- An act adds nothing to the trace, or one event of its own. -/
theorem perform_trace {a : Act} (hf : a.Fits) (s : State) :
    (perform a s).state.trace = s.trace ∨
      ∃ e, (perform a s).state.trace = s.trace ++ [e] ∧ e.IsOf s.addr a := by
  cases hp : perform a s with
  | done t =>
    obtain ⟨e, he, hok⟩ := (perform_done hf hp).trace
    exact .inr ⟨e, he, Event.isOf_of_isOkOf hok⟩
  | waiting t =>
    obtain ⟨ht, -, -⟩ := perform_waiting hp
    exact .inl (by rw [Verdict.state, ht])
  | raised k t =>
    obtain ⟨es, hs, hcase⟩ := perform_raised hf hp
    rcases hcase with ⟨m, r, p, er, rfl, -, rfl⟩ | ⟨n, x, er, rfl, -, rfl⟩ | ⟨m, r, n, er, rfl, -, rfl⟩ |
      ⟨n, id, bs, rfl, -, -, -, rfl⟩ | ⟨rfl, rfl⟩
    · exact .inr ⟨_, hs.trace, _, rfl⟩
    · exact .inr ⟨_, hs.trace, _, rfl⟩
    · exact .inr ⟨_, hs.trace, _, rfl⟩
    · exact .inr ⟨_, hs.trace, _, rfl⟩
    · exact .inl (by rw [Verdict.state, hs.trace, List.append_nil])

/-- `t` is at the address of `s`, and every event it has more is one of `acts`. -/
structure Adds (acts : List Act) (s t : State) : Prop where
  addr : t.addr = s.addr
  trace : ∃ es, t.trace = s.trace ++ es ∧ ∀ e ∈ es, ∃ act ∈ acts, e.IsOf t.addr act

theorem Adds.of_same {acts : List Act} {s t : State} (ha : t.addr = s.addr) (ht : t.trace = s.trace) :
    Adds acts s t :=
  ⟨ha, [], by simp [ht], by simp⟩

theorem Adds.trans {acts : List Act} {s t u : State} (h : Adds acts s t) (g : Adds acts t u) : Adds acts s u := by
  obtain ⟨es, hes, hall⟩ := h.trace
  obtain ⟨fs, hfs, hall'⟩ := g.trace
  refine ⟨g.addr.trans h.addr, es ++ fs, by rw [hfs, hes, List.append_assoc], fun e he => ?_⟩
  rcases List.mem_append.1 he with he | he
  · rw [g.addr]
    exact hall e he
  · exact hall' e he

theorem perform_adds {acts : List Act} {a : Act} (ha : a ∈ acts) (hf : a.Fits) (s : State) :
    Adds acts s (perform a s).state := by
  have haddr := (perform_kept hf s).addr
  rcases perform_trace hf s with ht | ⟨e, ht, he⟩
  · exact .of_same haddr ht
  · exact ⟨haddr, [e], ht, by simpa [haddr] using ⟨a, ha, he⟩⟩

/-- An operation taken up again adds events of its body only. -/
theorem resume_adds (i : Instr) (s : State) : Adds (bodyOf s.cfg i) s (resume i s) :=
  runActs_rel (R := Adds (bodyOf s.cfg i)) Adds.trans (fun _ _ => .of_same rfl rfl)
    (fun s' => .of_same (finishOf_ends i s').addr (finishOf_ends i s').trace)
    (fun a ha => perform_adds (List.mem_of_mem_drop ha) (bodyOf_fits s.cfg i a (List.mem_of_mem_drop ha))) s

/-- What an operation taken up again adds to the trace, at the address it has. -/
theorem resume_new_event {i : Instr} {s : State} {e : Event} (he : e ∈ (resume i s).trace.drop s.trace.length) :
    ∃ act ∈ bodyOf s.cfg i, e.IsOf (resume i s).addr act := by
  obtain ⟨es, hes, hall⟩ := (resume_adds i s).trace
  rw [hes, List.drop_left] at he
  exact hall e he

/-- What an instruction adds to the trace: events of its body, which its checks let run. -/
theorem exec_new_event {i : Instr} {s t : State} {e : Event} (h : exec i s = .next t)
    (he : e ∈ t.trace.drop s.trace.length) : Allowed i s ∧ ∃ act ∈ bodyOf s.cfg i, e.IsOf t.addr act := by
  rcases exec_next_cases h with ⟨-, -, rfl⟩ | ⟨-, -, why, rfl⟩ | ⟨-, ha, rfl⟩
  · simp at he
  · simp at he
  · have hs : (startState i s).trace = s.trace := by rw [startState_eq]
    rw [← hs] at he
    refine ⟨ha, ?_⟩
    rw [← (startState_flows i s).cfg]
    exact resume_new_event he

/-- What a step adds to the trace: events of the body of one operation. -/
theorem step_new_event {s t : State} {e : Event} (h : step s = .next t) (he : e ∈ t.trace.drop s.trace.length) :
    ∃ i, ∃ act ∈ bodyOf s.cfg i, e.IsOf t.addr act := by
  rcases step_cases s with ⟨-, hs⟩ | ⟨-, i, -, hs⟩ | ⟨-, -, -, hs⟩ | ⟨-, -, p, rest, why, -, -, hs⟩ |
    ⟨-, -, p, rest, i, -, -, hs⟩ <;> rw [hs] at h
  · cases h
    simp [State.applyReset] at he
  · cases h
    exact ⟨i, resume_new_event he⟩
  · cases h
    simp at he
  · cases h
    simp at he
  · obtain ⟨-, hb⟩ := exec_new_event (s := { s with cmdIn := rest }) h he
    exact ⟨i, hb⟩

end Sys2Proof.Machine
end

section
/-! PROOFS. Every step keeps each separate read right after the 6 ms delay and the address write (20_memory.md R72): the
bodies have that shape, and the events of the running operation follow its body one by one. -/

namespace Sys2Proof.Machine

/-! ### The bodies -/

/-- Every separate read of the acts comes right after an address write and a 6 ms delay. -/
def SettledActs (acts : List Act) : Prop :=
  ∀ k n x, acts[k]? = some (.tr n x) → ∃ pre m r, acts.take k = pre ++ [.tw m r [], .dly 6]

theorem SettledActs.of_no_read {acts : List Act} (h : ∀ a ∈ acts, a.isRead = false) : SettledActs acts := by
  intro k n x hk
  have hr := h _ (List.mem_of_getElem? hk)
  simp [Act.isRead] at hr

theorem SettledActs.append {l r : List Act} (hl : SettledActs l) (hr : SettledActs r) : SettledActs (l ++ r) := by
  intro k n x hk
  rcases Nat.lt_or_ge k l.length with h | h
  · rw [List.getElem?_append_left h] at hk
    rw [List.take_append_of_le_length h.le]
    exact hl k n x hk
  · rw [List.getElem?_append_right h] at hk
    obtain ⟨pre, m, rg, hpre⟩ := hr _ n x hk
    exact ⟨l ++ pre, m, rg, by rw [List.take_append, List.take_of_length_le h, hpre, List.append_assoc]⟩

theorem readRegisterActs_settled (c : Config) (m r : Byte) (n : Nat) (x : Option Byte) :
    SettledActs (readRegisterActs c m r n x) := by
  unfold readRegisterActs
  split
  · split
    · intro k n' x' hk
      match k with
      | 0 | 1 => simp at hk
      | 2 => exact ⟨[], m, r, rfl⟩
      | k + 3 => simp at hk
    · intro k n' x' hk
      match k with
      | 0 => simp at hk
      | k + 1 => simp at hk
  · exact .of_no_read (by simp [Act.isRead])

theorem writeRegisterActs_settled (m r : Byte) (p : List Byte) : SettledActs (writeRegisterActs m r p) :=
  .of_no_read (writeRegisterActs_isRead m r p)

theorem armAllActs_settled (c : Config) : SettledActs (armAllActs c) := by
  refine .of_no_read fun act hact => ?_
  obtain ⟨w, -, mask, -, rfl⟩ := mem_armAllActs hact
  rfl

theorem newBody_settled (c : Config) : SettledActs (newBody c) := by
  have hled : SettledActs (ledSetupActs c) :=
    (writeRegisterActs_settled _ _ _).append (writeRegisterActs_settled _ _ _)
  have hreset : SettledActs (swrstBody c ++ [.dly Config.tResetMs]) :=
    (writeRegisterActs_settled _ _ _).append (.of_no_read (by simp [Act.isRead]))
  unfold newBody
  split
  · exact ((hreset.append (readRegisterActs_settled _ _ _ _ _)).append hled).append (armAllActs_settled c)
  · exact hled

theorem bodyOf_settled (c : Config) (i : Instr) : SettledActs (bodyOf c i) := by
  rcases bodyOf_cases c i with ⟨a, rfl⟩ | rfl | ⟨m, r, p, hb⟩ | ⟨m, r, n, hb⟩ | hb
  · exact newBody_settled c
  · exact .of_no_read (bodyOf_isRead (by simp) rfl)
  · exact hb ▸ writeRegisterActs_settled m r p
  · exact hb ▸ readRegisterActs_settled c m r n none
  · exact .of_no_read fun act hact => by obtain ⟨k, rfl⟩ := hb act hact; rfl

/-! ### The trace -/

/-- One event more keeps the reads settled, if it is no read or comes right after the delay and the address write. -/
theorem SettledReads.append {tr : List Event} {e : Event} (h : SettledReads tr)
    (he : ∀ a n ans, e = .tr a n ans → ∃ pre m r, tr = pre ++ [.tw a [m, r] .ok, .dly 6]) :
    SettledReads (tr ++ [e]) := by
  intro k a n ans hk
  rcases Nat.lt_or_ge k tr.length with hlt | hge
  · rw [List.getElem?_append_left hlt] at hk
    obtain ⟨j, m, r, rfl, h1, h2⟩ := h k a n ans hk
    exact ⟨j, m, r, rfl, by rw [List.getElem?_append_left (by omega), h1],
      by rw [List.getElem?_append_left (by omega), h2]⟩
  · obtain ⟨hk0, rfl⟩ : k = tr.length ∧ e = .tr a n ans := by
      rw [List.getElem?_append_right hge] at hk
      obtain ⟨hk1, hk2⟩ := List.getElem?_eq_some_iff.1 hk
      simp only [List.length_singleton] at hk1
      exact ⟨by omega, by simpa using hk2⟩
    obtain ⟨pre, m, r, rfl⟩ := he a n ans rfl
    exact ⟨pre.length, m, r, by simpa using hk0, by simp, by simp⟩

/-- The events of an address write and a delay that went well. -/
theorem okTrace_address_delay {a : DevAddr} {pre : List Act} {m r : Byte} {es : List Event}
    (h : OkTrace a (pre ++ [.tw m r [], .dly 6]) es) : ∃ es', es = es' ++ [.tw a [m, r] .ok, .dly 6] := by
  have hlast := List.forall₂_drop pre.length h
  rw [List.drop_left] at hlast
  obtain ⟨e₁, _, hw, htail, hes⟩ := List.forall₂_cons_left_iff.1 hlast
  obtain ⟨e₂, _, hd, hnil, rfl⟩ := List.forall₂_cons_left_iff.1 htail
  refine ⟨es.take pre.length, ?_⟩
  rw [← Event.isOkOf_tw hw, ← Event.isOkOf_dly hd, ← List.forall₂_nil_left_iff.1 hnil, ← hes, List.take_append_drop]

/-- An event of the act at `seq` keeps the reads settled: a read's body has the delay and the address write before it. -/
theorem SettleInv.settled_append {i : Instr} {s : State} {act : Act} {e : Event} (h : SettleInv s)
    (hc : s.current = some i) (hat : (bodyOf s.cfg i)[s.seq]? = some act) (he : e.IsOf s.addr act) :
    SettledReads (s.trace ++ [e]) := by
  refine h.settled.append ?_
  rintro a n ans rfl
  cases act with
  | tr n' x =>
    obtain ⟨ans', ha⟩ := he
    cases ha
    obtain ⟨pre, m, r, htake⟩ := bodyOf_settled s.cfg i s.seq n x hat
    obtain ⟨before, es, htr, hok⟩ := h.inFlight i hc
    rw [htake] at hok
    obtain ⟨es', rfl⟩ := okTrace_address_delay hok
    exact ⟨before ++ es', m, r, by rw [htr, List.append_assoc]⟩
  | tw | twr | dly => simp [Event.IsOf] at he
  | raise k => exact he.elim

/-! ### One event -/

theorem SettleInv.of_idle {s : State} (hc : s.current = none) (h : SettledReads s.trace) : SettleInv s :=
  ⟨inFlight_of_idle hc, h⟩

/-- An event answered `Ok` joins those of the running operation. -/
theorem InFlight.goes {i : Instr} {s t : State} {act : Act} (h : InFlight s) (hc : s.current = some i)
    (hat : (bodyOf s.cfg i)[s.seq]? = some act) (g : Goes act s t) : InFlight t := by
  intro j hj
  obtain rfl : i = j := Option.some.inj (hc.symm.trans (g.current.symm.trans hj))
  obtain ⟨before, es, htr, hok⟩ := h i hc
  obtain ⟨e, he, hoke⟩ := g.trace
  refine ⟨before, es ++ [e], by rw [he, htr, List.append_assoc], ?_⟩
  rw [g.addr, g.cfg, g.seq, List.take_add_one, hat]
  exact List.rel_append hok (.cons hoke .nil)

theorem eventStep_settleInv {s : State} (h : SettleInv s) : SettleInv (eventStep s) := by
  cases hc : s.current with
  | none => rwa [eventStep_idle hc]
  | some i =>
    cases hat : (bodyOf s.cfg i)[s.seq]? with
    | none =>
      rw [eventStep_end hc hat]
      have he := finishOf_ends i s
      exact .of_idle he.current (he.trace ▸ h.settled)
    | some act =>
      have hf := bodyOf_fits s.cfg i act (List.mem_of_getElem? hat)
      have hsettled : SettledReads (perform act s).state.trace := by
        rcases perform_trace hf s with ht | ⟨e, ht, he⟩ <;> rw [ht]
        · exact h.settled
        · exact h.settled_append hc hat he
      cases hp : perform act s with
      | done t =>
        rw [eventStep_done hc hat hp]
        rw [hp] at hsettled
        exact ⟨h.inFlight.goes hc hat (perform_done hf hp), hsettled⟩
      | raised k t =>
        rw [eventStep_raised hc hat hp]
        rw [hp] at hsettled
        exact .of_idle rfl hsettled
      | waiting t =>
        rw [eventStep_waiting hc hat hp]
        obtain ⟨ht, -, -⟩ := perform_waiting hp
        rw [ht]
        exact ⟨h.inFlight, h.settled⟩

/-! ### A step -/

/-- An operation taken up again is a number of single events. -/
theorem resume_settleInv {i : Instr} {s : State} (hc : s.current = some i) (h : SettleInv s) :
    SettleInv (resume i s) := by
  rw [resume_eq_iterate hc]
  exact Function.Iterate.rec SettleInv h (fun _ => eventStep_settleInv) _

theorem exec_settleInv {i : Instr} {s t : State} (hinv : SettleInv s) (h : exec i s = .next t) : SettleInv t := by
  rcases exec_next_cases h with ⟨-, -, rfl⟩ | ⟨-, -, why, rfl⟩ | ⟨-, -, rfl⟩
  · exact hinv
  · exact .of_idle rfl hinv.settled
  · refine resume_settleInv (startState_current i s) ⟨fun j hj => ?_, by rw [startState_eq]; exact hinv.settled⟩
    exact ⟨(startState i s).trace, [], by simp, by rw [startState_seq]; exact .nil⟩

/-- Settles O55: a running operation, or one just taken, is a number of single events, each of which keeps the reads
settled; all else a step can do leaves the trace as it is and nothing in progress. -/
theorem stepKeepsReadsSettled : Obligations.StepKeepsReadsSettled := by
  intro s t hinv h
  rcases step_cases s with ⟨-, he⟩ | ⟨-, i, hi, he⟩ | ⟨-, hn, -, he⟩ | ⟨-, hn, p, rest, why, -, -, he⟩ |
    ⟨-, hn, p, rest, i, -, -, he⟩ <;> rw [he] at h
  · cases h
    exact .of_idle rfl hinv.settled
  · cases h
    exact resume_settleInv hi hinv
  · cases h
    exact hinv
  · cases h
    exact .of_idle hn hinv.settled
  · exact exec_settleInv (s := { s with cmdIn := rest }) (.of_idle hn hinv.settled) h

end Sys2Proof.Machine
end

section
/-! PROOFS. Which requests the acts of a body make: those of the tier (20_memory.md R61, R62, R65), and for a command
those of the list (30_encoding.md R92, R110). -/

namespace Sys2Proof.Machine

/-! ### The tier -/

/-- The act is one a build of this tier performs: no write-then-read on Full, no separate read and no delay on Lite. -/
def Act.OnTier : Tier → Act → Prop
  | _, .tw _ _ _ => True
  | _, .raise _ => True
  | tier, .tr _ _ => tier = .full
  | tier, .dly _ => tier = .full
  | tier, .twr _ _ _ => tier = .lite

theorem writeRegisterActs_onTier (tier : Tier) (m r : Byte) (p : List Byte) :
    ∀ act ∈ writeRegisterActs m r p, act.OnTier tier := by
  unfold writeRegisterActs
  split <;> simp [Act.OnTier]

theorem readRegisterActs_onTier (c : Config) (m r : Byte) (n : Nat) (x : Option Byte) :
    ∀ act ∈ readRegisterActs c m r n x, act.OnTier c.tier := by
  unfold readRegisterActs
  split
  · split <;> simp_all [Act.OnTier]
  · simp [Act.OnTier]

theorem armAllActs_onTier (c : Config) : ∀ act ∈ armAllActs c, act.OnTier c.tier := by
  intro act hact
  obtain ⟨w, -, mask, -, rfl⟩ := mem_armAllActs hact
  trivial

theorem newBody_onTier (c : Config) : ∀ act ∈ newBody c, act.OnTier c.tier := by
  cases ht : c.tier with
  | full =>
    rw [newBody_full ht]
    have harm := armAllActs_onTier c
    rw [ht] at harm
    simpa [Act.OnTier, or_imp, forall_and] using harm
  | lite =>
    rw [newBody_lite ht]
    simp [Act.OnTier]

theorem showLedBody_onTier (c : Config) : ∀ act ∈ showLedBody c, act.OnTier c.tier := by
  unfold showLedBody
  refine List.forall_mem_append.2 ⟨writeRegisterActs_onTier _ _ _ _, ?_⟩
  split <;> simp_all [Act.OnTier]

/-- Every body is made of acts of its build's tier. -/
theorem bodyOf_onTier (c : Config) (i : Instr) : ∀ act ∈ bodyOf c i, act.OnTier c.tier := by
  rcases bodyOf_cases c i with ⟨a, rfl⟩ | rfl | ⟨m, r, p, hb⟩ | ⟨m, r, n, hb⟩ | hb
  · exact newBody_onTier c
  · exact showLedBody_onTier c
  · exact hb ▸ writeRegisterActs_onTier c.tier m r p
  · exact hb ▸ readRegisterActs_onTier c m r n none
  · intro act hact
    obtain ⟨k, rfl⟩ := hb act hact
    trivial

/-- Settles O51: what a step adds to the trace are events of one body, whose acts are those of the tier. -/
theorem tierFixesTheTransactions : Obligations.TierFixesTheTransactions := by
  intro s t e h he
  obtain ⟨i, act, hact, hof⟩ := step_new_event h he
  have hon := bodyOf_onTier s.cfg i act hact
  cases act with
  | tw m r p =>
    obtain ⟨ans, rfl⟩ := hof
    simp
  | tr n x =>
    obtain ⟨ans, rfl⟩ := hof
    have hfull : s.cfg.tier = .full := hon
    simp [hfull]
  | twr m r n =>
    obtain ⟨ans, rfl⟩ := hof
    have hlite : s.cfg.tier = .lite := hon
    simp [hlite]
  | dly ms =>
    obtain rfl : e = .dly ms := hof
    have hfull : s.cfg.tier = .full := hon
    simp [hfull]
  | raise k => exact hof.elim

/-! ### The commands -/

/-- The act's request is one the commands make: a listed frame, a read that fits RB, or one of the three delays. -/
def Act.Listed (c : Config) : Act → Prop
  | .tw m r p => IsEmitted c (m :: r :: p)
  | .tr n _ => n ≤ 32
  | .twr _ _ _ => False
  | .dly ms => ms = 500 ∨ ms = 6 ∨ ms = 8
  | .raise _ => True

/-- An arming write sends one of the 64 arming frames. -/
theorem armAllActs_listed (c : Config) : ∀ act ∈ armAllActs c, act.Listed c := by
  intro act hact
  obtain ⟨w, hw, mask, hmask, rfl⟩ := mem_armAllActs hact
  exact .inr (.inl (List.mem_flatMap.2 ⟨w, hw, by simpa using hmask⟩))

theorem newBody_listed (c : Config) : ∀ act ∈ newBody c, act.Listed c := by
  cases ht : c.tier with
  | full =>
    rw [newBody_full ht]
    refine List.forall_mem_append.2 ⟨?_, armAllActs_listed c⟩
    simp [Act.Listed, IsEmitted]
  | lite =>
    rw [newBody_lite ht]
    simp [Act.Listed, IsEmitted]

/-- The LED offset of an index below 16 fits its low byte (30_encoding.md R99). -/
theorem be16_ledOffset : ∀ index : Byte, index.toNat < 16 →
    be16 (ledOffset index) = [0x00, BitVec.ofNat 8 (3 * index.toNat)] := by decide

/-- The body of SET_LED_COLOR for an index below 16 (45_ready_ops.md R190). -/
theorem setLedColorBody_eq {index : Byte} (h : index.toNat < 16) (r g b : Byte) :
    setLedColorBody index r g b = [.tw 0x0E 0x04 [0x00, BitVec.ofNat 8 (3 * index.toNat), g, r, b]] := by
  rw [setLedColorBody, be16_ledOffset index h, writeRegisterActs_short (by simp [colorToWire])]
  rfl

/-- A Full-tier read sequence of a listed address frame makes listed requests only. -/
theorem readRegisterActs_listed {c : Config} {m r : Byte} (ht : c.tier = .full) (h : IsEmitted c [m, r]) (n : Nat)
    (x : Option Byte) : ∀ act ∈ readRegisterActs c m r n x, act.Listed c := by
  rcases Nat.lt_or_ge 32 n with hn | hn
  · rw [readRegisterActs_long hn]
    simp [Act.Listed]
  · rw [readRegisterActs_full ht hn]
    simp [Act.Listed, h, hn]

/-- The body of a command its checks allow makes listed requests only. -/
theorem bodyOf_listed {i : Instr} {s : State} (hi : i.isCommand = true) (ha : Allowed i s) :
    ∀ act ∈ bodyOf s.cfg i, act.Listed s.cfg := by
  cases i
  case new => exact newBody_listed s.cfg
  case setLedColor index r g b =>
    obtain ⟨-, hlt⟩ := ha
    rw [bodyOf, setLedColorBody_eq hlt]
    exact List.forall_mem_singleton.2 (.inr (.inr ⟨index.toNat, g, r, b, hlt, rfl⟩))
  case showLed =>
    refine List.forall_mem_append.2 ⟨?_, ?_⟩
    · rw [ledShowBody, writeRegisterActs_short (by simp)]
      simp [Act.Listed, IsEmitted, Config.modLed]
    · split <;> simp [Act.Listed, Config.tShowMs]
  case readKeyEvents n =>
    obtain ⟨-, ht⟩ := ha
    exact readRegisterActs_listed (m := 0x10) (r := s.cfg.regKeypadFifo) ht (.inl (by simp)) n.toNat none
  case keypadCount =>
    obtain ⟨-, ht⟩ := ha
    exact readRegisterActs_listed (m := 0x10) (r := s.cfg.regKeypadCount) ht (.inl (by simp)) 1 none
  case cmdReserved => exact ha.elim
  all_goals simp [Instr.isCommand] at hi

/-- Settles O50: what a command adds to the trace are events of its body at `addr`, and its body's requests are
listed. -/
theorem commandsEmitOnlyTheListedFrames : Obligations.CommandsEmitOnlyTheListedFrames := by
  intro i s t e hi _ h he
  obtain ⟨ha, act, hact, hof⟩ := exec_new_event h he
  have hl := bodyOf_listed hi ha act hact
  cases act with
  | tw m r p =>
    obtain ⟨ans, rfl⟩ := hof
    exact .inl ⟨_, ans, rfl, hl⟩
  | tr n x =>
    obtain ⟨ans, rfl⟩ := hof
    exact .inr (.inl ⟨n, ans, rfl, hl⟩)
  | twr m r n => exact hl.elim
  | dly ms => exact .inr (.inr ⟨ms, hof, hl⟩)
  | raise k => exact hof.elim

end Sys2Proof.Machine
end

section
/-! PROOFS. Two commands against the informative reference chip (20_memory.md R67, log 12): what the chip answers, and
what it comes to. -/

namespace Sys2Proof.Machine

/-! ### Painting a pixel -/

theorem overlayList_eq (xs ys : List Byte) (h : xs.length ≤ ys.length) :
    overlayList xs ys = xs ++ ys.drop xs.length := by
  induction xs generalizing ys with
  | nil => simp [overlayList]
  | cons x xs ih =>
    cases ys with
    | nil => simp at h
    | cons y ys => simp [overlayList, ih ys (by simpa using h)]

/-- A write that fits the pixel buffer replaces as many bytes as it has, from its offset on. -/
theorem RefChip.paint_pix {off : Nat} {d : List Byte} {ch : RefChip} (h : off + d.length ≤ 48) :
    (ch.paint off d).pix.toList = ch.pix.toList.take off ++ d ++ ch.pix.toList.drop (off + d.length) := by
  have hd : d.length ≤ (ch.pix.toList.drop off).length := by simp; omega
  simp [RefChip.paint, h, overlayAt, overlayList_eq d _ hd]

/-- A write to LED.BUF paints. -/
theorem RefChip.write_ledBuf (c : Config) (hi lo : Byte) (d : List Byte) (ch : RefChip) :
    ch.write c 0x0E 0x04 (hi :: lo :: d) =
      RefChip.paint (hi.toNat * 256 + lo.toNat) d { ch with selected := (0x0E, 0x04) } := by
  simp [RefChip.write, Config.modStatus, Config.modLed, Config.regLedBuf]

/-- The reference chip serves one write to LED.BUF. -/
theorem RefChip.serve_ledBuf (c : Config) (hi lo : Byte) (d : List Byte) (ch : RefChip) :
    RefChip.serve c [.tw 0x0E 0x04 (hi :: lo :: d)] ch =
      ([.ofBytes []], RefChip.paint (hi.toNat * 256 + lo.toNat) d { ch with selected := (0x0E, 0x04) }) := by
  rw [RefChip.serve, RefChip.serve, RefChip.write_ledBuf]

/-- Settles O57: the one write is answered Ok and paints three bytes at its offset. -/
theorem setLedColorPaintsTheReferenceChip : Obligations.SetLedColorPaintsTheReferenceChip := by
  intro index r g b s ch hi hst hlt
  have hbody : bodyOf s.cfg (.setLedColor index r g b) =
      [.tw 0x0E 0x04 [0x00, BitVec.ofNat 8 (3 * index.toNat), g, r, b]] := setLedColorBody_eq hlt r g b
  constructor
  · have hbus : (s.against ch (.setLedColor index r g b)).busIn = [.ofBytes []] := by
      rw [State.against, hbody, RefChip.serve_ledBuf]
    have hidle : Idle (s.against ch (.setLedColor index r g b)) := hi
    refine ⟨_, exec_allowed hidle ⟨hst, hlt⟩, ?_⟩
    rw [show (s.against ch _).cfg = s.cfg from rfl, hbody]
    exact congrArg State.result (run_write hidle (by simp) hbus)
  · have hoff : (0x00 : Byte).toNat * 256 + (BitVec.ofNat 8 (3 * index.toNat)).toNat = index.toNat * 3 := by
      simp
      omega
    rw [RefChip.after, hbody, RefChip.serve_ledBuf, hoff]
    exact RefChip.paint_pix (d := [g, r, b]) (by simp; omega)

/-! ### Draining the pending events -/

/-- The address write of a keypad read selects the register and leaves the rest of the chip as it is. -/
theorem RefChip.write_keypad (c : Config) (r : Byte) (ch : RefChip) :
    ch.write c 0x10 r [] = { ch with selected := (0x10, r) } := by
  simp [RefChip.write, Config.modStatus, Config.modLed]

/-- A read of KEYPAD.FIFO delivers the first pending bytes, padded, and removes them. -/
theorem RefChip.read_fifo {c : Config} (h : c.distinct = true) (n : Nat) (ch : RefChip) :
    ch.read c 0x10 c.regKeypadFifo n = (fifoBytes n ch.fifo, { ch with fifo := ch.fifo.drop n }) := by
  obtain ⟨-, -, -, -, hne⟩ := Config.distinct_spec h
  simp [RefChip.read, Config.modStatus, Config.modKeypad, hne.symm]

/-- The reference chip serves a Full-tier read of KEYPAD.FIFO. -/
theorem RefChip.serve_fifo {c : Config} (h : c.distinct = true) (n : Nat) (ch : RefChip) :
    RefChip.serve c [.tw 0x10 c.regKeypadFifo [], .dly 6, .tr n none] ch =
      ([.ofBytes [], .ofBytes (fifoBytes n ch.fifo)],
        { ch with selected := (0x10, c.regKeypadFifo), fifo := ch.fifo.drop n }) := by
  rw [RefChip.serve, RefChip.serve, RefChip.serve, RefChip.write_keypad, RefChip.read_fifo h]
  rfl

theorem fifoBytes_length (n : Nat) (fifo : List Byte) : (fifoBytes n fifo).length = n := by
  simp [fifoBytes]
  omega

/-- What the block receives of the chip's answer. -/
theorem take_fifoBytes {n : Nat} (h : n ≤ 32) (fifo : List Byte) (v : Vector Byte 32) :
    (overlay (fifoBytes n fifo) v).toList.take n = fifoBytes n fifo := by
  have hlen := fifoBytes_length n fifo
  have htake := overlay_take (fifoBytes n fifo) v (by omega)
  rwa [hlen] at htake

/-- A byte that is not malformed decodes to its slot (42_event_codec.md R145). -/
theorem eventDecode_wellFormed : ∀ b : Byte, wellFormedEvent b = true → eventDecode b = .ok (slotOf b) := by decide

theorem decodeSlots_wellFormed {bs : List Byte} (h : ∀ b ∈ bs, wellFormedEvent b = true) :
    decodeSlots bs = .ok (bs.map slotOf) := by
  induction bs with
  | nil => rfl
  | cons b bs ih =>
    have hb : eventDecode b = .ok (slotOf b) := eventDecode_wellFormed b (h b (by simp))
    simp [decodeSlots, hb, ih (fun x hx => h x (by simp [hx]))]

/-- The padding decodes to no event, slot by slot. -/
theorem decodeSlots_fifoBytes {n : Nat} {fifo : List Byte} (h : ∀ b ∈ fifo.take n, wellFormedEvent b = true) :
    decodeSlots (fifoBytes n fifo) =
      .ok ((fifo.take n).map slotOf ++ List.replicate (n - fifo.length) none) := by
  have hpad : ∀ b ∈ fifoBytes n fifo, wellFormedEvent b = true := by
    intro b hb
    rcases List.mem_append.1 hb with hb | hb
    · exact h b hb
    · rw [List.eq_of_mem_replicate hb]
      rfl
  rw [decodeSlots_wellFormed hpad, fifoBytes, List.map_append, List.map_replicate]
  rfl

/-- Settles O58: the read is answered with the padded front of the pending events, which decodes slot by slot. -/
theorem readKeyEventsDrainsTheReferenceChip : Obligations.ReadKeyEventsDrainsTheReferenceChip := by
  intro n s ch hi hst ht hdist hn hwf
  have hbody : bodyOf s.cfg (.readKeyEvents n) = [.tw 0x10 s.cfg.regKeypadFifo [], .dly 6, .tr n.toNat none] :=
    readRegisterActs_full ht hn
  have hserve := RefChip.serve_fifo hdist n.toNat ch
  constructor
  · have hbus : (s.against ch (.readKeyEvents n)).busIn = [.ofBytes [], .ofBytes (fifoBytes n.toNat ch.fifo)] := by
      rw [State.against, hbody, hserve]
    have hdelay : (s.against ch (.readKeyEvents n)).delayIn = 2 + 1 := by
      rw [State.against, hbody]
      rfl
    have hidle : Idle (s.against ch (.readKeyEvents n)) := hi
    refine ⟨_, exec_allowed hidle ⟨hst, ht⟩, ?_⟩
    have hrun := run_read_full (fin := readKeyEventsFinish n) (m := 0x10) (r := s.cfg.regKeypadFifo) (n := n.toNat)
      (i := .readKeyEvents n) hbus hdelay
    rw [show (s.against ch _).cfg = s.cfg from rfl, hbody]
    refine (congrArg State.result hrun).trans ?_
    rw [readKeyEventsFinish, received_readFullDone _ _ _ _ _ _ _ _ hn, take_fifoBytes hn, decodeSlots_fifoBytes hwf]
    rfl
  · rw [RefChip.after, hbody, hserve]

end Sys2Proof.Machine
end

section
/-! PROOFS. The encodings: the round trip from an instruction, and what a packet that decodes is read as, decoder by
decoder. -/

namespace Sys2Proof

/-! ### From the instruction to its word and back -/

/-- The word of a well-formed instruction decodes to it, row by row of the opcode table. -/
theorem decode_encode (i : Instr) : Laws.Encoding.Statement i := by
  cases i with
  | new a => exact Laws.Encoding.new a
  | setLedColor index r g b => exact Laws.Encoding.setLedColor index r g b
  | showLed => exact Laws.Encoding.showLed
  | readKeyEvents n => exact Laws.Encoding.readKeyEvents n
  | keypadCount => exact Laws.Encoding.keypadCount
  | cmdReserved x => exact Laws.Encoding.cmdReserved x
  | writeRegister m r p => exact Laws.Encoding.writeRegister m r p
  | readRegister m r n => exact Laws.Encoding.readRegister m r n
  | swrst => exact Laws.Encoding.swrst
  | hwId => exact Laws.Encoding.hwId
  | ledPin => exact Laws.Encoding.ledPin
  | ledBufLength => exact Laws.Encoding.ledBufLength
  | ledBuf h l g r b => exact Laws.Encoding.ledBuf h l g r b
  | ledShow => exact Laws.Encoding.ledShow
  | keypadEvent r c mask => exact Laws.Encoding.keypadEvent r c mask
  | keypadCountReg => exact Laws.Encoding.keypadCountReg
  | keypadFifo n => exact Laws.Encoding.keypadFifo n
  | evEmpty => exact Laws.Encoding.evEmpty
  | evHigh r c => exact Laws.Encoding.evHigh r c
  | evLow r c => exact Laws.Encoding.evLow r c
  | evFalling r c => exact Laws.Encoding.evFalling r c
  | evRising r c => exact Laws.Encoding.evRising r c
  | evMalformed x => exact Laws.Encoding.evMalformed x
  | keyToWire k => exact Laws.Encoding.keyToWire k
  | keyFromWire w => exact Laws.Encoding.keyFromWire w
  | colorToWire r g b => exact Laws.Encoding.colorToWire r g b
  | eventDecode e => exact Laws.Encoding.eventDecode e

/-- Settles O12: the round trip of every row. -/
theorem decodeOfEncodeIsTheInstruction : Obligations.DecodeOfEncodeIsTheInstruction :=
  fun c i hdist hwf => decode_encode i c hdist hwf

/-- Settles O11: each packet is the word of its instruction, so it decodes by the round trip. -/
theorem wordsOfTheSpecDecode : Obligations.WordsOfTheSpecDecode := by
  have hword : ∀ i : Instr, i.wellFormed = true → decode Config.default (encode Config.default i) = .ok i :=
    fun i => decode_encode i Config.default (by decide)
  exact ⟨hword (.new 0x2E) rfl, hword (.setLedColor 5 1 2 3) rfl, hword (.readKeyEvents 4) rfl,
    hword (.ledBuf 0x00 0x0F 0x02 0x01 0x03) rfl, hword (.keypadEvent 2 3 0x09) rfl, hword (.keypadFifo 32) rfl,
    hword (.evFalling 3 3) rfl, hword (.keyFromWire 0x13) rfl⟩

/-- A reserved opcode is told by its byte alone, whatever follows it (30_encoding.md R109). -/
theorem decode_reserved (c : Config) {x : Byte} (operands : List Byte) (h : 5 ≤ x.toNat) :
    decode c ⟨.command, x :: operands, 0⟩ = .ok (.cmdReserved ⟨x, operands⟩) :=
  decode_encode (.cmdReserved ⟨x, operands⟩) Config.default (by decide) (decide_eq_true h)

/-! ### From the packet to its instruction and back -/

/-- What decodes without being a word of its row: an over-long payload or read (log 18), and a byte outside format KEY
given to KEY_FROM_WIRE (log 8). -/
def Instr.OutOfRange (i : Instr) : Prop :=
  (∃ m r pl, i = .writeRegister m r pl ∧ 32 ≤ pl.length) ∨ (∃ m r n, i = .readRegister m r n ∧ 32 < n) ∨
    (∃ n, i = .keypadFifo n ∧ 32 < n) ∨ ∃ w, i = .keyFromWire w ∧ w &&& 0xE4 ≠ 0

theorem keypadFifo_range (n : Nat) : (Instr.keypadFifo n).wellFormed = true ∨ (Instr.keypadFifo n).OutOfRange :=
  (Nat.lt_or_ge 32 n).elim (fun h => .inr (.inr (.inr (.inl ⟨n, rfl, h⟩)))) (fun h => .inl (decide_eq_true h))

theorem readRegister_range (m r : Byte) (n : Nat) :
    (Instr.readRegister m r n).wellFormed = true ∨ (Instr.readRegister m r n).OutOfRange :=
  (Nat.lt_or_ge 32 n).elim (fun h => .inr (.inr (.inl ⟨m, r, n, rfl, h⟩))) (fun h => .inl (decide_eq_true h))

theorem writeRegister_range (m r : Byte) (pl : List Byte) :
    (Instr.writeRegister m r pl).wellFormed = true ∨ (Instr.writeRegister m r pl).OutOfRange :=
  (Nat.lt_or_ge pl.length 32).elim (fun h => .inl (decide_eq_true h)) (fun h => .inr (.inl ⟨m, r, pl, rfl, h⟩))

theorem keyFromWire_range (w : Byte) : (Instr.keyFromWire w).wellFormed = true ∨ (Instr.keyFromWire w).OutOfRange :=
  (em (w &&& 0xE4 = 0)).elim (fun h => .inl (decide_eq_true h)) (fun h => .inr (.inr (.inr (.inr ⟨w, rfl, h⟩))))

/-- What a packet that decodes is read as: an instruction whose word it is, with its operands in the ranges of its
row or handed on to the error of the row. -/
structure ReadAs (c : Config) (p : Packet) (i : Instr) : Prop where
  word : encode c i = p
  range : i.wellFormed = true ∨ i.OutOfRange

theorem ReadAs.of_ok {c : Config} {p : Packet} {i j : Instr} (h : (.ok j : Except Reject Instr) = .ok i)
    (hj : ReadAs c p j) : ReadAs c p i :=
  Except.ok.inj h ▸ hj

/-- A byte that is none of the five opcodes is a reserved one. -/
theorem reserved_of_ne {x : Byte} (h0 : x ≠ 0x00) (h1 : x ≠ 0x01) (h2 : x ≠ 0x02) (h3 : x ≠ 0x03) (h4 : x ≠ 0x04) :
    5 ≤ x.toNat := by
  bv_omega

theorem decodeCommand_readAs {c : Config} {bs : List Byte} {i : Instr} (h : decodeCommand bs = .ok i) :
    ReadAs c ⟨.command, bs, 0⟩ i := by
  cases bs with
  | nil => simp [decodeCommand] at h
  | cons op args =>
    simp only [decodeCommand] at h
    split_ifs at h with h0 h1 h2 h3 h4
    · subst op
      split at h
      · split_ifs at h with hmsb
        exact .of_ok h ⟨by simp [encode, address_of_byte _ (by simpa using hmsb)], .inl rfl⟩
      · simp at h
    -- The other four opcodes fix the number of their operands and take every value of them.
    iterate 4
      · subst op
        split at h
        · exact .of_ok h ⟨rfl, .inl rfl⟩
        · simp at h
    · exact .of_ok h ⟨rfl, .inl (decide_eq_true (reserved_of_ne h0 h1 h2 h3 h4))⟩

theorem decodeWriteFrame_readAs {c : Config} {bs : List Byte} {i : Instr} (h : decodeWriteFrame c bs = .ok i) :
    ReadAs c ⟨.writeFrame, bs, 0⟩ i := by
  unfold decodeWriteFrame at h
  split at h
  case h_2 => simp at h
  case h_1 m r p =>
    split_ifs at h with hreg hp hreg hp hreg hp hreg hreg hp hreg
    all_goals obtain ⟨rfl, rfl⟩ := Prod.mk.inj hreg
    · exact .of_ok h ⟨by rw [hp]; rfl, .inl rfl⟩
    · exact .of_ok h ⟨by rw [hp]; rfl, .inl rfl⟩
    · exact .of_ok h ⟨by rw [hp]; rfl, .inl rfl⟩
    · split at h
      · exact .of_ok h ⟨rfl, .inl rfl⟩
      · simp at h
    · exact .of_ok h ⟨by rw [hp]; rfl, .inl rfl⟩
    · split at h
      · split_ifs at h with hkey
        exact .of_ok h ⟨by rw [encode, keyByte_of_isKeyByte _ hkey], .inl rfl⟩
      · simp at h

theorem decodeReadFrame_readAs {c : Config} {n : Nat} {bs : List Byte} {i : Instr}
    (h : decodeReadFrame c n bs = .ok i) : ReadAs c ⟨.readFrame, bs, n⟩ i := by
  unfold decodeReadFrame at h
  split at h
  case h_2 => simp at h
  case h_1 m r =>
    split_ifs at h with hreg hn hreg hn hreg
    all_goals obtain ⟨rfl, rfl⟩ := Prod.mk.inj hreg
    · exact .of_ok h ⟨by rw [hn]; rfl, .inl rfl⟩
    · exact .of_ok h ⟨by rw [hn]; rfl, .inl rfl⟩
    · exact .of_ok h ⟨rfl, keypadFifo_range n⟩

/-- A byte with bits 7 and 4 clear is put together again from its fields (30_encoding.md R93). -/
theorem eventByte_of_fields : ∀ e : Byte, e &&& 0x90 = 0 →
    eventByte (e.extractLsb' 5 2) (e.extractLsb' 2 2) (e.extractLsb' 0 2) = e := by decide

theorem decodeEventByte_readAs (c : Config) (e : Byte) : ReadAs c ⟨.eventByte, [e], 0⟩ (decodeEventByte e) := by
  unfold decodeEventByte
  split_ifs with hempty hbad
  · exact ⟨by rw [hempty]; rfl, .inl rfl⟩
  · exact ⟨rfl, .inl (Bool.and_eq_true_iff.2 ⟨decide_eq_true hempty, decide_eq_true hbad⟩)⟩
  · have hword : ∀ k, e.extractLsb' 0 2 = k →
        (⟨.eventByte, [eventByte (e.extractLsb' 5 2) (e.extractLsb' 2 2) k], 0⟩ : Packet) = ⟨.eventByte, [e], 0⟩ := by
      rintro _ rfl
      rw [eventByte_of_fields e (of_not_not hbad)]
    split <;> exact ⟨hword _ (by assumption), .inl rfl⟩

theorem oneByte_ok {f : Byte → Except Reject Instr} {bs : List Byte} {i : Instr} (h : oneByte f bs = .ok i) :
    ∃ x, bs = [x] ∧ f x = .ok i := by
  unfold oneByte at h
  split at h
  · exact ⟨_, rfl, h⟩
  · simp at h

/-- A key index put together from two fields is below 16. -/
theorem keyIndex_lt : ∀ r c : BitVec 2, (0#4 ++ r ++ c : Byte).toNat < 16 := by decide

theorem keyToWire_readAs (c : Config) {w : Byte} (h : isKeyByte w = true) :
    ReadAs c ⟨.keyToWire, [w], 0⟩ (.keyToWire (0#4 ++ keyRow w ++ keyCol w)) :=
  ⟨by rw [encode, keyByte_of_index, keyByte_of_isKeyByte w h], .inl (decide_eq_true (keyIndex_lt _ _))⟩

/-- A check that rejects was passed where something decodes. -/
theorem ok_of_guard {q : Prop} [Decidable q] {why : Reject} {x : Except Reject Instr} {i : Instr}
    (h : (if q then .error why else x) = .ok i) : ¬q ∧ x = .ok i := by
  split_ifs at h with hq
  exact ⟨hq, h⟩

/-- Everything a packet can decode to, port by port. -/
theorem decode_readAs {c : Config} {p : Packet} {i : Instr} (h : decode c p = .ok i) : ReadAs c p i := by
  obtain ⟨port, bs, len⟩ := p
  cases port
  case readRegister =>
    simp only [decode] at h
    split at h
    · exact .of_ok h ⟨rfl, readRegister_range _ _ _⟩
    · simp at h
  case readFrame => exact decodeReadFrame_readAs h
  all_goals
    obtain ⟨hlen, h⟩ := ok_of_guard h
    obtain rfl := of_not_not hlen
    dsimp only at h
  case command => exact decodeCommand_readAs h
  case writeRegister =>
    split at h
    · exact .of_ok h ⟨rfl, writeRegister_range _ _ _⟩
    · simp at h
  case writeFrame => exact decodeWriteFrame_readAs h
  case eventByte =>
    obtain ⟨e, rfl, he⟩ := oneByte_ok h
    exact .of_ok he (decodeEventByte_readAs c e)
  case eventDecode =>
    obtain ⟨e, rfl, he⟩ := oneByte_ok h
    exact .of_ok he ⟨rfl, .inl rfl⟩
  case keyToWire =>
    obtain ⟨w, rfl, hw⟩ := oneByte_ok h
    split_ifs at hw with hkey
    exact .of_ok hw (keyToWire_readAs c hkey)
  case keyFromWire =>
    obtain ⟨w, rfl, hw⟩ := oneByte_ok h
    exact .of_ok hw ⟨rfl, keyFromWire_range w⟩
  case colorToWire =>
    split at h
    · exact .of_ok h ⟨rfl, .inl rfl⟩
    · simp at h

/-- Settles O13: whatever a packet is read as, the packet is its word. -/
theorem encodeOfDecodeIsThePacket : Obligations.EncodeOfDecodeIsThePacket :=
  fun _ _ _ h => (decode_readAs h).word

/-- Settles O14: whatever a packet is read as is well formed, or one of the rows handed on to their error. -/
theorem decodedIsWellFormedOrOutOfRange : Obligations.DecodedIsWellFormedOrOutOfRange :=
  fun _ _ _ h => (decode_readAs h).range

end Sys2Proof
end

section
/-! PROOFS. The operations of the inner layers issued on their own: a codec ends as soon as it is accepted, a named
frame is one write or one read; and the reserved opcodes. -/

namespace Sys2Proof.Machine

/-! ### Presenting a table word -/

/-- Settles O4: the packet placed stands at the front of an idle block's queue. -/
theorem fetchWordRunsNext : Obligations.FetchWordRunsNext :=
  fun s nbits w i h => stepRunsTheDecodedInstruction (s.withFetchWord nbits w) _ s.cmdIn i rfl rfl rfl h

/-! ### An operation of an inner layer -/

/-- An operation of an inner layer asks for no lifecycle state and no tier (log 10): an idle block runs its body. -/
theorem exec_inner {i : Instr} {s : State} (hi : Idle s) (hinner : i.isCommand = false) :
    exec i s = .next (runActs (finishOf i) (bodyOf s.cfg i) (s.accept i)) := by
  cases i
  case new | setLedColor | showLed | readKeyEvents | keypadCount | cmdReserved => simp [Instr.isCommand] at hinner
  all_goals exact exec_allowed hi trivial

/-! ### Codecs -/

/-- A codec makes no request: its end follows its acceptance. -/
theorem exec_codec {i : Instr} {s : State} (hi : Idle s) (hinner : i.isCommand = false) (hcodec : i.isCodec = true) :
    exec i s = .next (finishOf i (s.accept i)) := by
  rw [exec_inner hi hinner, bodyOf_codec hcodec, runActs]

/-- Settles O16: the value of the codec is its result. -/
theorem colorGoesOutGreenRedBlue : Obligations.ColorGoesOutGreenRedBlue := by
  intro r g b s hi
  exact (exec_codec hi rfl rfl).trans (congrArg _ (finish_accept hi _ _))

/-- An event byte that decodes hands out its slot. -/
theorem finishEvent_ok {i : Instr} {s : State} {e : Byte} {slot : Option KeypadEvent} (hi : Idle s)
    (h : eventDecode e = .ok slot) : finishEvent e (s.accept i) = endedWith (.slot slot) s := by
  rw [finishEvent, h]
  exact finish_accept hi i _

/-- An event byte that does not decode faults the block. -/
theorem finishEvent_error {i : Instr} {s : State} {e : Byte} (hi : Idle s)
    (h : eventDecode e = .error (.decodeFault .malformedKey)) :
    finishEvent e (s.accept i) =
      { s with st := .faulted, seq := 0, result := some (.err (.decodeFault .malformedKey)) } := by
  rw [finishEvent, h]
  exact raise_accept hi i _

/-- Format EV: key `rrcc` and the kind of its code (30_encoding.md R93). -/
theorem eventDecode_eventByte : ∀ r c k : BitVec 2, eventDecode (eventByte r c k) = .ok (some ⟨r ++ c, kindOf k⟩) := by
  decide

/-- A byte other than the sentinel with bit 7 or bit 4 set is malformed (42_event_codec.md R148). -/
theorem eventDecode_malformed : ∀ e : Byte, e ≠ 0xFF → e &&& 0x90 ≠ 0 →
    eventDecode e = .error (.decodeFault .malformedKey) := by decide

/-- Settles O21: each class is a byte of format EV, the sentinel or a malformed byte. -/
theorem eventByteClassesHaveTheirValue : Obligations.EventByteClassesHaveTheirValue := by
  intro r c x s hi
  have hclass : ∀ (i : Instr) (k : BitVec 2), i.isCommand = false → i.isCodec = true →
      finishOf i = finishEvent (eventByte r c k) →
      exec i s = .next (endedWith (.slot (some ⟨r ++ c, kindOf k⟩)) s) := by
    intro i k hinner hcodec hfin
    rw [exec_codec hi hinner hcodec, hfin, finishEvent_ok hi (eventDecode_eventByte r c k)]
  refine ⟨?_, hclass (.evHigh r c) 0 rfl rfl rfl, hclass (.evLow r c) 1 rfl rfl rfl,
    hclass (.evFalling r c) 2 rfl rfl rfl, hclass (.evRising r c) 3 rfl rfl rfl, fun hwf => ?_⟩
  · exact (exec_codec hi rfl rfl).trans (congrArg _ (finishEvent_ok hi rfl))
  · obtain ⟨hne, hbits⟩ := Bool.and_eq_true_iff.1 hwf
    have hdecode := eventDecode_malformed x (of_decide_eq_true hne) (of_decide_eq_true hbits)
    exact (exec_codec hi rfl rfl).trans (congrArg _ (finishEvent_error hi hdecode))

/-! ### Named frames -/

/-- An instruction whose body is one call of WRITE_REGISTER with a payload that fits writes its frame. -/
theorem exec_write {i : Instr} {m r : Byte} {p : List Byte} {s : State} {d : Vector Byte 32} {rest : List BusAnswer}
    (hi : Idle s) (hbus : s.busIn = .ok d :: rest) (hinner : i.isCommand = false)
    (hbody : bodyOf s.cfg i = writeRegisterActs m r p) (hfin : finishOf i = finishUnit) (hp : p.length < 32) :
    exec i s = .next (afterWrite (m :: r :: p) rest s) := by
  rw [exec_inner hi hinner, hbody, hfin, writeRegisterActs_short hp, run_write hi hp hbus]

/-- Settles O26: each named frame is one call of WRITE_REGISTER. -/
theorem namedWriteFramesAreSent : Obligations.NamedWriteFramesAreSent := by
  intro s d rest hi hbus
  exact ⟨exec_write hi hbus rfl rfl rfl (by decide), exec_write hi hbus rfl rfl rfl (by decide),
    exec_write hi hbus rfl rfl rfl (by decide),
    fun h l g r b => exec_write hi hbus rfl (p := [h, l, g, r, b]) rfl rfl (by simp),
    exec_write hi hbus rfl rfl rfl (by decide),
    fun r c mask => exec_write hi hbus rfl (p := [keyByte r c, mask]) rfl rfl (by simp)⟩

/-- An instruction whose body is one call of READ_REGISTER, on Full: its result is what its end makes of the
state after the three events. -/
theorem exec_read_full {i : Instr} {m r : Byte} {n : Nat} {s : State} {d0 d : Vector Byte 32} {rest : List BusAnswer}
    {k : Nat} {v : Value} (hi : Idle s) (ht : s.cfg.tier = .full) (hbus : s.busIn = .ok d0 :: .ok d :: rest)
    (hk : s.delayIn = k + 1) (hinner : i.isCommand = false)
    (hbody : bodyOf s.cfg i = readRegisterActs s.cfg m r n none) (hn : n ≤ 32)
    (hv : finishOf i (readFullDone i m r n d rest k s) = (readFullDone i m r n d rest k s).finish (.ok v)) :
    exec i s = .next (afterReadFull m r n (d.toList.take n) rest k (.ok v) s) := by
  rw [exec_inner hi hinner, hbody, readRegisterActs_full ht hn, run_read_full hbus hk, hv, finish_readFullDone hi]

/-- The same on Lite: its result is what its end makes of the state after the one event. -/
theorem exec_read_lite {i : Instr} {m r : Byte} {n : Nat} {s : State} {d : Vector Byte 32} {rest : List BusAnswer}
    {v : Value} (hi : Idle s) (ht : s.cfg.tier = .lite) (hbus : s.busIn = .ok d :: rest) (hinner : i.isCommand = false)
    (hbody : bodyOf s.cfg i = readRegisterActs s.cfg m r n none) (hn : n ≤ 32)
    (hv : finishOf i (readLiteDone i m r n d rest s) = (readLiteDone i m r n d rest s).finish (.ok v)) :
    exec i s = .next (afterReadLite m r n (d.toList.take n) rest (.ok v) s) := by
  rw [exec_inner hi hinner, hbody, readRegisterActs_lite ht hn, run_read_lite hbus, hv, finish_readLiteDone hi]

/-- A read that is too long is refused before any request, on both tiers (43_register_protocol.md R158). -/
theorem exec_read_long {i : Instr} {m r : Byte} {n : Nat} {s : State} (hi : Idle s) (hinner : i.isCommand = false)
    (hbody : bodyOf s.cfg i = readRegisterActs s.cfg m r n none) (hn : 32 < n) :
    exec i s = .next (refusedWith .readTooLong s) := by
  rw [exec_inner hi hinner, hbody, readRegisterActs_long hn, runActs_cons_raised (perform_raise _ _)]
  exact congrArg _ (raise_accept hi i _)

theorem finishIdentity_of_first {s : State} {b : Byte} (h : s.rb[0] = b) :
    finishIdentity s = s.finish (.ok (.identity b (decide (b = s.cfg.hwIdCode)))) := by
  rw [finishIdentity, h]

theorem finishByte_of_first {s : State} {b : Byte} (h : s.rb[0] = b) : finishByte s = s.finish (.ok (.byte b)) := by
  rw [finishByte, h]

theorem finishRead_of_received {n : Nat} {s : State} {bs : List Byte} (h : s.received n = bs) :
    finishRead n s = s.finish (.ok (.bytes bs)) := by
  rw [finishRead, h]

/-- Settles O27: each named read is one call of READ_REGISTER, and its end reads what the last event put into RB. -/
theorem namedReadFramesFullTier : Obligations.NamedReadFramesFullTier := by
  intro s hi ht
  refine ⟨fun d0 d rest k hbus hk => ?_, fun n hn => exec_read_long hi rfl rfl hn⟩
  rw [← take_one d]
  refine ⟨?_, ?_, fun n hn => ?_⟩
  · exact exec_read_full hi ht hbus hk rfl rfl (by decide) (finishIdentity_of_first (first_received d s.rb))
  · exact exec_read_full hi ht hbus hk rfl rfl (by decide) (finishByte_of_first (first_received d s.rb))
  · exact exec_read_full hi ht hbus hk rfl rfl hn
      (finishRead_of_received (received_readFullDone _ _ _ _ _ _ _ _ hn))

/-- Settles O28: as on Full, with the one event of a write-then-read. -/
theorem namedReadFramesLiteTier : Obligations.NamedReadFramesLiteTier := by
  intro s hi ht
  refine ⟨fun d rest hbus => ?_, fun n hn => exec_read_long hi rfl rfl hn⟩
  rw [← take_one d]
  refine ⟨?_, ?_, fun n hn => ?_⟩
  · exact exec_read_lite hi ht hbus rfl rfl (by decide) (finishIdentity_of_first (first_received d s.rb))
  · exact exec_read_lite hi ht hbus rfl rfl (by decide) (finishByte_of_first (first_received d s.rb))
  · exact exec_read_lite hi ht hbus rfl rfl hn
      (finishRead_of_received (received_readLiteDone _ _ _ _ _ _ _ hn))

/-! ### Reserved opcodes -/

/-- A reserved opcode offered to an idle block: refused, in Faulted by the first check (60_exceptions.md R213). -/
theorem exec_cmdReserved {s : State} (hi : Idle s) (x : ReservedCommand) :
    exec (.cmdReserved x) s = .next (refusedWith (if s.st = .faulted then .faulted else .badCommand) s) := by
  have hi : s.current = none := hi
  simp only [exec, execCmdReserved, reservedCommand, hi]
  refine congrArg _ ?_
  ext1 <;> simp [refusedWith, ErrKind.failFast, hi]

/-- Settles O32: the end of the command depends on the lifecycle state alone, and the byte alone tells it. -/
theorem reservedOpcodeRaisesBadCommand : Obligations.ReservedOpcodeRaisesBadCommand := by
  refine ⟨fun x operands s hi => ⟨fun hst => ?_, fun hst => ?_⟩, fun c x operands h => decode_reserved c operands h⟩
  · rw [exec_cmdReserved hi, if_neg hst]
  · rw [exec_cmdReserved hi, if_pos hst]

end Sys2Proof.Machine
end

section
/-! PROOFS. Format RES, the bytes of the result port (30_encoding.md R97). -/

namespace Sys2Proof.Machine

/-- A slot byte is four times the key index plus the kind code (30_encoding.md R97). -/
theorem slotByte_toNat (e : KeypadEvent) : (slotByte (some e)).toNat = 4 * e.key.toNat + (kindCode e.kind).toNat := by
  have hfields : ∀ (i : KeyIndex) (k : BitVec 2),
      (((0#4 ++ i) <<< 2 ||| (0#6 ++ k) : Byte)).toNat = 4 * i.toNat + k.toNat := by decide
  exact hfields e.key (kindCode e.kind)

theorem kindOf_kindCode (k : EdgeKind) : kindOf (kindCode k) = k := by cases k <;> rfl

theorem kindCode_injective : Function.Injective kindCode :=
  Function.LeftInverse.injective kindOf_kindCode

/-- The quotient and the remainder by 4 of a slot byte are its key index and its kind code. -/
theorem slotByte_some_injective {e f : KeypadEvent} (h : slotByte (some e) = slotByte (some f)) : e = f := by
  have hsum := congrArg BitVec.toNat h
  rw [slotByte_toNat, slotByte_toNat] at hsum
  have he := (kindCode e.kind).isLt
  have hf := (kindCode f.kind).isLt
  have hkey : e.key = f.key := BitVec.eq_of_toNat_eq (by omega)
  have hkind : kindCode e.kind = kindCode f.kind := BitVec.eq_of_toNat_eq (by omega)
  exact congrArg₂ KeypadEvent.mk hkey (kindCode_injective hkind)

/-- An event's slot byte is at most 63, so it is never the byte of the empty slot. -/
theorem slotByte_some_ne_none (e : KeypadEvent) : slotByte (some e) ≠ slotByte none := by
  intro h
  have hsum := congrArg BitVec.toNat h
  rw [slotByte_toNat, show (slotByte none).toNat = 255 from rfl] at hsum
  have hkey := e.key.isLt
  have hkind := (kindCode e.kind).isLt
  omega

theorem slotByte_injective : Function.Injective slotByte := by
  intro x y h
  match x, y with
  | none, none => rfl
  | none, some f => exact absurd h.symm (slotByte_some_ne_none f)
  | some e, none => exact absurd h (slotByte_some_ne_none e)
  | some e, some f => exact congrArg some (slotByte_some_injective h)

/-- Settles O15: the status codes by definition, the slots by the arithmetic of their byte. -/
theorem resultPortBytes : Obligations.ResultPortBytes :=
  ⟨fun _ => rfl, fun _ => rfl, rfl, slotByte_toNat, ⟨rfl, rfl, rfl, rfl⟩, fun _ _ h => slotByte_injective h,
    fun _ => rfl, fun _ => rfl, rfl, fun _ => rfl, fun _ => rfl⟩

end Sys2Proof.Machine
end

section
/-! PROOFS. The key-index codec: its two formulas, the round trip between them, and the two operations issued on their
own (41_key_index_codec.md). -/

namespace Sys2Proof.Machine

/-! ### The two functions -/

theorem keyToWire_of_lt {i : Byte} (h : i.toNat < 16) : keyToWire i = .ok (packKey i) := if_pos h

theorem keyToWire_of_ge {i : Byte} (h : 16 ≤ i.toNat) : keyToWire i = .error (.contractViolation .keyIndexRange) :=
  if_neg (Nat.not_lt.2 h)

theorem inImage_iff {w : Byte} : inImage w = true ↔ w &&& 0xE4 = 0 := decide_eq_true_iff

theorem keyFromWire_of_inImage {w : Byte} (h : inImage w = true) : keyFromWire w = some ((rawFromWire w).setWidth 4) :=
  if_pos h

theorem keyFromWire_of_not_inImage {w : Byte} (h : ¬ inImage w = true) : keyFromWire w = none := if_neg h

theorem keyFromWire_eq_some {w : Byte} {i : KeyIndex} (h : keyFromWire w = some i) :
    inImage w = true ∧ (rawFromWire w).setWidth 4 = i := by
  by_cases himage : inImage w = true
  · exact ⟨himage, Option.some.inj ((keyFromWire_of_inImage himage).symm.trans h)⟩
  · simp [keyFromWire_of_not_inImage himage] at h

/-! ### The two formulas -/

/-- A packed key id has bits 7:5 and 2 clear (41_key_index_codec.md R135). -/
theorem inImage_packKey : ∀ i : Byte, i.toNat < 16 → inImage (packKey i) = true := by decide

/-- On the image the formula of KEY_FROM_WIRE stays below 16 (41_key_index_codec.md R136). -/
theorem rawFromWire_lt : ∀ w : Byte, inImage w = true → (rawFromWire w).toNat < 16 := by decide

theorem rawFromWire_packKey : ∀ i : Byte, i.toNat < 16 → rawFromWire (packKey i) = i := by decide

theorem packKey_rawFromWire : ∀ w : Byte, inImage w = true → packKey (rawFromWire w) = w := by decide

/-! ### The round trip -/

/-- A key index is below 16 as a byte, too. -/
theorem keyIndex_setWidth_lt (i : KeyIndex) : (i.setWidth 8).toNat < 16 := by
  rw [BitVec.toNat_setWidth_of_le (by decide)]
  exact i.isLt

/-- On the image no bit of the formula's value is lost on the way to a key index and back to a byte. -/
theorem setWidth_rawFromWire {w : Byte} (h : inImage w = true) :
    ((rawFromWire w).setWidth 4).setWidth 8 = rawFromWire w := by
  have hraw := rawFromWire_lt w h
  apply BitVec.eq_of_toNat_eq
  rw [BitVec.toNat_setWidth_of_le (by decide), BitVec.toNat_setWidth]
  exact Nat.mod_eq_of_lt hraw

/-- Settles O19: on the sixteen key indices and the sixteen packed key ids the two formulas are inverse. -/
theorem keyRoundTrip : Obligations.KeyRoundTrip := by
  refine ⟨fun i => ?_, fun w i h => ?_⟩
  · have hi := keyIndex_setWidth_lt i
    refine ⟨packKey (i.setWidth 8), keyToWire_of_lt hi, ?_⟩
    rw [keyFromWire_of_inImage (inImage_packKey _ hi), rawFromWire_packKey _ hi,
      BitVec.setWidth_setWidth_of_le _ (by decide), BitVec.setWidth_eq]
  · obtain ⟨himage, rfl⟩ := keyFromWire_eq_some h
    rw [setWidth_rawFromWire himage, keyToWire_of_lt (rawFromWire_lt w himage), packKey_rawFromWire w himage]

/-! ### The two operations -/

/-- Settles O17: below 16 the operation ends with the packed key id, from 16 on it raises the range error. -/
theorem keyToWireFollowsTheFormula : Obligations.KeyToWireFollowsTheFormula := by
  intro i s hi
  refine ⟨fun hlt => ⟨?_, inImage_iff.1 (inImage_packKey i hlt)⟩, fun hge => ?_⟩
  · rw [exec_codec hi rfl rfl, finishOf, finishKeyToWire, keyToWire_of_lt hlt]
    exact congrArg _ (finish_accept hi _ _)
  · rw [exec_codec hi rfl rfl, finishOf, finishKeyToWire, keyToWire_of_ge hge]
    exact congrArg _ (raise_accept hi _ _)

/-- Settles O18: on the image the operation ends with the key index, outside it raises the decode fault. -/
theorem keyFromWireFollowsTheFormula : Obligations.KeyFromWireFollowsTheFormula := by
  intro w s hi
  rw [← inImage_iff, ne_eq, ← inImage_iff]
  refine ⟨fun himage => ?_, fun hout => ?_⟩
  · refine ⟨(rawFromWire w).setWidth 4, ?_, ?_⟩
    · rw [exec_codec hi rfl rfl, finishOf, finishKeyFromWire, keyFromWire_of_inImage himage]
      exact congrArg _ (finish_accept hi _ _)
    · rw [BitVec.toNat_setWidth]
      exact Nat.mod_eq_of_lt (rawFromWire_lt w himage)
  · rw [exec_codec hi rfl rfl, finishOf, finishKeyFromWire, keyFromWire_of_not_inImage hout]
    exact congrArg _ (raise_accept hi _ _)

end Sys2Proof.Machine
end

section
/-! PROOFS. EVENT_DECODE of every byte: the sentinel, the malformed bytes, the event bytes (42_event_codec.md). -/

namespace Sys2Proof.Machine

/-- The sentinel is the empty slot, before its malformed key field is looked at (42_event_codec.md R147). -/
theorem eventDecode_sentinel : eventDecode 0xFF = .ok none := if_pos rfl

/-- A byte with bits 7 and 4 clear is no malformed byte (42_event_codec.md R148). -/
theorem wellFormedEvent_of_clear {e : Byte} (h : e &&& 0x90 = 0) : wellFormedEvent e = true :=
  Bool.or_eq_true_iff.2 (.inr (decide_eq_true h))

/-- Settles O20: the operation is a codec, so it ends as its byte decodes: as the sentinel, as a malformed byte, or as
the event of its fields. -/
theorem eventDecodeOfEveryByte : Obligations.EventDecodeOfEveryByte := by
  intro e s hi
  rw [exec_codec hi rfl rfl, finishOf]
  refine congrArg _ ?_
  split_ifs with hsentinel hbits
  · subst hsentinel
    exact finishEvent_ok hi eventDecode_sentinel
  · exact finishEvent_error hi (eventDecode_malformed e hsentinel hbits)
  · exact finishEvent_ok hi (eventDecode_wellFormed e (wellFormedEvent_of_clear (not_not.1 hbits)))

end Sys2Proof.Machine
end

section
/-! PROOFS. The two primitives of the register protocol issued on their own, for every answer of the oracle, and the
two tiers' reads compared (43_register_protocol.md). -/

namespace Sys2Proof.Machine

/-- A payload that is too long is refused before any request (43_register_protocol.md R155). -/
theorem exec_writeRegister_long {m r : Byte} {p : List Byte} {s : State} (hi : Idle s) (hp : 32 ≤ p.length) :
    exec (.writeRegister m r p) s = .next (refusedWith .payloadTooLong s) := by
  rw [exec_inner hi rfl, bodyOf, writeRegisterActs_long hp, runActs_cons_raised (perform_raise _ _)]
  exact congrArg _ (raise_accept hi _ _)

/-- Settles O22: a payload that fits is a body of one write, answered `Ok` or not; another is refused. -/
theorem writeRegisterIsOneFrame : Obligations.WriteRegisterIsOneFrame := by
  intro m r p s rest hi
  refine ⟨fun hp d hbus => ?_, fun hp e hbus => ?_, fun hp => exec_writeRegister_long hi hp⟩
  · exact exec_write hi hbus rfl rfl rfl hp
  · rw [exec_inner hi rfl, bodyOf, writeRegisterActs_short hp, run_write_fault hi hp hbus]

/-- Settles O23: the Full-tier body is a write, a delay and a read; it ends with its third act, or with the first that
fails. -/
theorem readRegisterFullTier : Obligations.ReadRegisterFullTier := by
  intro m r n s rest hi ht
  refine ⟨fun hn d0 d k hbus hk => ?_, fun hn e hbus => ?_, fun hn d0 e k hbus hk => ?_,
    fun hn => exec_read_long hi rfl rfl hn⟩
  · exact exec_read_full hi ht hbus hk rfl rfl hn
      (finishRead_of_received (received_readFullDone _ _ _ _ _ _ _ _ hn))
  · rw [exec_inner hi rfl, bodyOf, readRegisterActs_full ht hn, run_write_fault hi (by decide) hbus]
  · rw [exec_inner hi rfl, bodyOf, readRegisterActs_full ht hn, run_read_full_fault hi hbus hk]

/-- Settles O24: the Lite-tier body is its one write-then-read. -/
theorem readRegisterLiteTier : Obligations.ReadRegisterLiteTier := by
  intro m r n s rest hi ht
  refine ⟨fun hn d hbus => ?_, fun hn e hbus => ?_, fun hn => exec_read_long hi rfl rfl hn⟩
  · exact exec_read_lite hi ht hbus rfl rfl hn (finishRead_of_received (received_readLiteDone _ _ _ _ _ _ _ hn))
  · rw [exec_inner hi rfl, bodyOf, readRegisterActs_lite ht hn, run_read_lite_fault hi hbus]

/-- Settles O25: the answer of the read is `Ok` or `Err`, and in each case the two tiers' end states, as
`readRegisterFullTier` and `readRegisterLiteTier` give them, hold one result. -/
theorem tiersReadTheSame : Obligations.TiersReadTheSame := by
  intro m r n f l d0 x fr lr hf hl htf htl hn hbusf hdelay hbusl
  obtain ⟨k, hk⟩ := Nat.exists_eq_add_one.2 hdelay
  obtain ⟨fullOk, -, fullFault, -⟩ := readRegisterFullTier m r n f fr hf htf
  obtain ⟨liteOk, liteFault, -⟩ := readRegisterLiteTier m r n l lr hl htl
  cases x with
  | ok d => exact ⟨_, _, fullOk hn d0 d k hbusf hk, liteOk hn d hbusl, rfl, .inl ⟨d, rfl, rfl⟩⟩
  | err e => exact ⟨_, _, fullFault hn d0 e k hbusf hk, liteFault hn e hbusl, rfl, .inr ⟨e, rfl, rfl⟩⟩

end Sys2Proof.Machine
end

section
/-! PROOFS. Bring-up (44_bringup.md): its body as an identity check and a list of configuration writes, how a run passes
each part or stops in it, and the end states of NEW. -/

namespace Sys2Proof.Machine

/-! ### The body and the trace of bring-up, as one list of writes -/

/-- The two LED configuration writes (44_bringup.md R176). -/
def ledSetupWrites (c : Config) : List (Byte × Byte × List Byte) :=
  [(0x0E, c.regLedPin, [0x03]), (0x0E, c.regLedBufLength, [0x00, 0x30])]

/-- The 64 arming writes in the canonical order (44_bringup.md R177). -/
def armingWrites (c : Config) : List (Byte × Byte × List Byte) :=
  packedKeys.flatMap (fun w => [0x02, 0x04, 0x09, 0x11].map (fun mask => (0x10, c.regKeypadEvent, [w, mask])))

/-- The writes that follow the identity check on Full (44_bringup.md R178, events 6 to 71). -/
def configWrites (c : Config) : List (Byte × Byte × List Byte) := ledSetupWrites c ++ armingWrites c

/-- The event of a write answered `Ok`. -/
def writeEvent (a : DevAddr) (x : Byte × Byte × List Byte) : Event := .tw a (writeFrame x) .ok

/-- The Full-tier bring-up: the identity check, then writes only (44_bringup.md R175). -/
theorem newBody_full_writes {c : Config} (ht : c.tier = .full) :
    newBody c =
      .tw 0x00 c.regStatusSwrst [0xFF] :: .dly 500 :: .tw 0x00 c.regStatusHwId [] :: .dly 6 ::
        .tr 1 (some c.hwIdCode) :: (configWrites c).map writeAct :=
  newBody_full ht

/-- The Lite-tier bring-up: writes only (44_bringup.md R176). -/
theorem newBody_lite_writes {c : Config} (ht : c.tier = .lite) : newBody c = (ledSetupWrites c).map writeAct :=
  newBody_lite ht

theorem ledSetupTrace_eq (c : Config) (a : DevAddr) : ledSetupTrace c a = (ledSetupWrites c).map (writeEvent a) := rfl

theorem bringUpTrace_eq (c : Config) (a : DevAddr) :
    bringUpTrace c a = identityTrace c a c.hwIdCode ++ (configWrites c).map (writeEvent a) := rfl

theorem newTrace_full {c : Config} (ht : c.tier = .full) (a : DevAddr) :
    newTrace c a = identityTrace c a c.hwIdCode ++ (configWrites c).map (writeEvent a) := by
  rw [newTrace, ht]
  exact bringUpTrace_eq c a

theorem newTrace_lite {c : Config} (ht : c.tier = .lite) (a : DevAddr) :
    newTrace c a = (ledSetupWrites c).map (writeEvent a) := by
  rw [newTrace, ht]
  exact ledSetupTrace_eq c a

/-- The payloads of the configuration writes are of one or two bytes. -/
theorem configWrites_payload (c : Config) : ∀ x ∈ configWrites c, x.2.2.length ≤ 2 := by
  refine List.forall_mem_append.2 ⟨by simp [ledSetupWrites], fun x hx => ?_⟩
  obtain ⟨w, -, hx⟩ := List.mem_flatMap.1 hx
  obtain ⟨mask, -, rfl⟩ := List.mem_map.1 hx
  exact Nat.le_refl 2

theorem configWrites_fit (c : Config) : ∀ x ∈ configWrites c, x.2.2.length < 32 :=
  fun x hx => Nat.lt_of_le_of_lt (configWrites_payload c x hx) (by decide)

theorem ledSetupWrites_fit (c : Config) : ∀ x ∈ ledSetupWrites c, x.2.2.length < 32 :=
  fun x hx => configWrites_fit c x (List.mem_append_left _ hx)

/-- The last configuration write arms the last key with the last mask. -/
theorem configWrites_last (c : Config) :
    configWrites c = (configWrites c).dropLast ++ [(0x10, c.regKeypadEvent, [0x1B, 0x11])] := rfl

/-- After the configuration writes FB holds the last frame over what it held before. -/
theorem stageAll_configWrites (c : Config) (v : Vector Byte 34) :
    stageAll (configWrites c) v = overlay [0x10, c.regKeypadEvent, 0x1B, 0x11] v := by
  rw [configWrites_last]
  exact stageAll_append _ _ v (fun y hy => configWrites_payload c y (List.mem_of_mem_dropLast hy))

/-! ### The parts of a run -/

/-- A body in two parts is run part after part. -/
theorem runActs_append (fin : State → State) (xs ys : List Act) (s : State) :
    runActs fin (xs ++ ys) s = runActs (runActs fin ys) xs s := by
  induction xs generalizing s with
  | nil => rfl
  | cons a xs ih =>
    rw [List.cons_append]
    cases hp : perform a s with
    | done s' => rw [runActs_cons_done hp, runActs_cons_done hp, ih]
    | raised k s' => rw [runActs_cons_raised hp, runActs_cons_raised hp]
    | waiting s' => rw [runActs_cons_waiting hp, runActs_cons_waiting hp]

/-- The frame `x` was written and the delay after it has passed. -/
def afterSettledWrite (x : List Byte) (ms : BitVec 32) (rest : List BusAnswer) (k : Nat) (s : State) : State :=
  { s with
    seq := s.seq + 2
    fb := overlay x s.fb
    busIn := rest
    delayIn := k
    trace := s.trace ++ [.tw s.addr x .ok, .dly ms] }

/-- A write answered `Ok` and its delay are passed. -/
theorem run_settledWrite {fin : State → State} {more : List Act} {m r : Byte} {p : List Byte} {ms : BitVec 32}
    {s : State} {d : Vector Byte 32} {rest : List BusAnswer} {k : Nat} (hp : p.length < 32)
    (hbus : s.busIn = .ok d :: rest) (hk : s.delayIn = k + 1) :
    runActs fin (.tw m r p :: .dly ms :: more) s = runActs fin more (afterSettledWrite (m :: r :: p) ms rest k s) := by
  rw [runActs_cons_done (perform_tw_ok m r p s d rest hp hbus),
    runActs_cons_done (perform_dly_done ms _ k (by simpa using hk))]
  refine congrArg _ ?_
  ext1 <;> simp [afterSettledWrite]

/-- The byte `b` was read, before anything is made of it. -/
def afterByteRead (b : Byte) (rest : List BusAnswer) (s : State) : State :=
  ((s.answered rest).receive [b]).log (.tr s.addr 1 (.ok [b]))

/-- The identity read is passed with the expected byte, and raises with another (44_bringup.md R179). -/
theorem perform_identityRead {id : Byte} {s : State} {d : Vector Byte 32} {rest : List BusAnswer}
    (hbus : s.busIn = .ok d :: rest) :
    perform (.tr 1 (some id)) s =
      if d[0] = id then .done (afterByteRead d[0] rest s).advance
      else .raised .wrongIdentity (afterByteRead d[0] rest s) := by
  simp [perform_tr_ok 1 (some id) s d rest hbus, take_one, compareIdentity, afterByteRead]

/-! ### NEW -/

/-- An idle, uninitialized block given NEW runs its body (60_exceptions.md R213). -/
theorem exec_new {a : DevAddr} {s : State} (hi : Idle s) (hst : s.st = .uninitialized) :
    exec (.new a) s = .next (runActs newFinish (newBody s.cfg) (startState (.new a) s)) :=
  exec_allowed hi hst

/-- The run of NEW on Full at its identity read: events 1 to 4 of 44_bringup.md R178 went well. -/
def atIdentityRead (a : DevAddr) (rest : List BusAnswer) (k : Nat) (s : State) : State :=
  { startState (.new a) s with
    seq := 4
    fb := overlay [0x00, s.cfg.regStatusHwId] (overlay [0x00, s.cfg.regStatusSwrst, 0xFF] s.fb)
    busIn := rest
    delayIn := k
    trace := s.trace ++ [.tw a [0x00, s.cfg.regStatusSwrst, 0xFF] .ok, .dly 500, .tw a [0x00, s.cfg.regStatusHwId] .ok,
      .dly 6] }

/-- On Full, the reset frame answered `Ok`, NEW comes to the address write of the identity read. -/
theorem exec_new_identityAddress {a : DevAddr} {s : State} {d1 : Vector Byte 32} {rest : List BusAnswer} {k : Nat}
    (hi : Idle s) (hst : s.st = .uninitialized) (ht : s.cfg.tier = .full) (hbus : s.busIn = .ok d1 :: rest)
    (hk : s.delayIn = k + 1) :
    exec (.new a) s =
      .next (runActs newFinish
        (.tw 0x00 s.cfg.regStatusHwId [] :: .dly 6 :: .tr 1 (some s.cfg.hwIdCode) :: (configWrites s.cfg).map writeAct)
        (afterSettledWrite [0x00, s.cfg.regStatusSwrst, 0xFF] 500 rest k (startState (.new a) s))) := by
  rw [exec_new hi hst, newBody_full_writes ht, run_settledWrite (s := startState (.new a) s) (by decide) hbus hk]

/-- Its first two requests answered `Ok`, it comes to the identity read. -/
theorem exec_new_identityRead {a : DevAddr} {s : State} {d1 d2 : Vector Byte 32} {rest : List BusAnswer} {k : Nat}
    (hi : Idle s) (hst : s.st = .uninitialized) (ht : s.cfg.tier = .full)
    (hbus : s.busIn = .ok d1 :: .ok d2 :: rest) (hk : s.delayIn = k + 2) :
    exec (.new a) s =
      .next (runActs newFinish (.tr 1 (some s.cfg.hwIdCode) :: (configWrites s.cfg).map writeAct)
        (atIdentityRead a rest k s)) := by
  rw [exec_new_identityAddress hi hst ht hbus hk, run_settledWrite (by decide) rfl rfl]
  refine congrArg (fun t => Host.Outcome.next (runActs newFinish _ t)) ?_
  ext1 <;> simp [afterSettledWrite, atIdentityRead, startState]

/-- Past the identity read the trace holds events 1 to 5 of 44_bringup.md R178. -/
theorem afterIdentityRead_trace (a : DevAddr) (b : Byte) (s : State) (rest rest' : List BusAnswer) (k : Nat) :
    (afterByteRead b rest (atIdentityRead a rest' k s)).trace = s.trace ++ identityTrace s.cfg a b := by
  simp [afterByteRead, atIdentityRead, startState, identityTrace]

/-- With the right identity byte it comes to the configuration writes. -/
theorem exec_new_configWrites {a : DevAddr} {s : State} {d1 d2 d3 : Vector Byte 32} {rest : List BusAnswer} {k : Nat}
    (hi : Idle s) (hst : s.st = .uninitialized) (ht : s.cfg.tier = .full) (hid : d3[0] = s.cfg.hwIdCode)
    (hbus : s.busIn = .ok d1 :: .ok d2 :: .ok d3 :: rest) (hk : s.delayIn = k + 2) :
    exec (.new a) s =
      .next (runActs newFinish ((configWrites s.cfg).map writeAct)
        (afterByteRead d3[0] rest (atIdentityRead a (.ok d3 :: rest) k s)).advance) := by
  rw [exec_new_identityRead hi hst ht hbus hk, runActs_cons_done ((perform_identityRead rfl).trans (if_pos hid))]

/-! ### NEW that ends as it should -/

/-- Settles O33: past the identity check NEW is a body of writes, all answered `Ok`. -/
theorem bringUpFullTierCompletes : Obligations.BringUpFullTierCompletes := by
  intro a s d1 d2 d3 ds rest k hi hst ht hid hlen hbus hk
  rw [exec_new_configWrites hi hst ht hid hbus hk,
    run_writes newFinish (configWrites s.cfg) _ ds rest (configWrites_fit s.cfg) hlen rfl]
  refine ⟨_, rfl, rfl, rfl, rfl, rfl, rfl, ?_, rfl, rfl, rfl, ?_, rfl, rfl, rfl, rfl⟩
  · rw [bringUpTrace_eq, ← List.append_assoc, ← hid, ← afterIdentityRead_trace a d3[0] s rest _ k]
    rfl
  · simp [afterByteRead, atIdentityRead, stageAll_configWrites, overlay_absorb]

/-- Settles O34: on Lite NEW is a body of two writes. -/
theorem bringUpLiteTierCompletes : Obligations.BringUpLiteTierCompletes := by
  intro a s d1 d2 rest hi hst ht hbus
  rw [exec_new hi hst, newBody_lite_writes ht,
    run_writes newFinish (ledSetupWrites s.cfg) (startState (.new a) s) [d1, d2] rest (ledSetupWrites_fit s.cfg) rfl
      hbus]
  refine ⟨_, rfl, rfl, rfl, rfl, rfl, rfl, rfl, rfl, rfl, rfl, ?_, rfl, rfl, rfl, rfl⟩
  exact stageAll_append [(0x0E, s.cfg.regLedPin, [0x03])] (0x0E, s.cfg.regLedBufLength, [0x00, 0x30]) s.fb (by simp)

/-! ### NEW stopped at its identity read -/

/-- Settles O37: the identity read is reached, and fails. -/
theorem failingIdentityReadStopsBringUp : Obligations.FailingIdentityReadStopsBringUp := by
  intro a s d1 d2 e rest k hi hst ht hbus hk
  rw [exec_new_identityRead hi hst ht hbus hk, runActs_cons_raised (perform_tr_err 1 _ _ e rest rfl)]
  refine ⟨_, rfl, rfl, rfl, hst, rfl, ?_, rfl, rfl⟩
  simp [atIdentityRead, startState]

/-- Settles O35: the identity read is reached, and delivers another byte. -/
theorem wrongIdentityStopsBringUp : Obligations.WrongIdentityStopsBringUp := by
  intro a s d1 d2 d3 rest k hi hst ht hid hbus hk
  rw [exec_new_identityRead hi hst ht hbus hk, runActs_cons_raised ((perform_identityRead rfl).trans (if_neg hid))]
  refine ⟨_, rfl, hst, rfl, rfl, ?_, rfl⟩
  exact afterIdentityRead_trace a d3[0] s rest _ k

/-! ### NEW stopped at a write -/

/-- A write in a trace of writes answered `Ok` stands at one of the writes. -/
theorem map_writeEvent_split {b : List (Byte × Byte × List Byte)} {a : DevAddr} {x : List Byte}
    {pre post : List Event} (h : b.map (writeEvent a) = pre ++ .tw a x .ok :: post) :
    ∃ w1 w w2, b = w1 ++ w :: w2 ∧ pre = w1.map (writeEvent a) ∧ x = writeFrame w := by
  obtain ⟨w1, b', rfl, rfl, hb'⟩ := List.map_eq_append_iff.1 h
  obtain ⟨w, w2, rfl, hw, -⟩ := List.map_eq_cons_iff.1 hb'
  obtain ⟨-, rfl, -⟩ := Event.tw.inj hw
  exact ⟨w1, w, w2, rfl, rfl, rfl⟩

/-- A write in a trace that begins with the identity check is one of its two writes or comes after it. -/
theorem identityTrace_split {c : Config} {a : DevAddr} {id : Byte} {x : List Byte} {l pre post : List Event}
    (h : identityTrace c a id ++ l = pre ++ .tw a x .ok :: post) :
    (pre = [] ∧ x = [0x00, c.regStatusSwrst, 0xFF]) ∨
    (pre = [.tw a [0x00, c.regStatusSwrst, 0xFF] .ok, .dly 500] ∧ x = [0x00, c.regStatusHwId]) ∨
    ∃ pre', pre = identityTrace c a id ++ pre' ∧ l = pre' ++ .tw a x .ok :: post := by
  rcases pre with _ | ⟨e1, _ | ⟨e2, _ | ⟨e3, _ | ⟨e4, _ | ⟨e5, pre'⟩⟩⟩⟩⟩ <;>
    simp only [identityTrace, List.cons_append, List.nil_append] at h
  · cases h
    exact .inl ⟨rfl, rfl⟩
  · cases h
  · cases h
    exact .inr (.inl ⟨rfl, rfl⟩)
  · cases h
  · cases h
  · cases h
    exact .inr (.inr ⟨pre', rfl, rfl⟩)

/-- Writes are requests, not delays. -/
theorem countP_writeEvent (a : DevAddr) (b : List (Byte × Byte × List Byte)) :
    (b.map (writeEvent a)).countP Event.isDelay = 0 ∧
      (b.map (writeEvent a)).countP (fun ev => !ev.isDelay) = b.length := by
  induction b with
  | nil => exact ⟨rfl, rfl⟩
  | cons x b ih => simp [writeEvent, Event.isDelay, ih]

/-- The block stopped at its write `x`, which failed: what FailingWriteStopsBringUp says of the end state. -/
structure StoppedAtWrite (a : DevAddr) (x : List Byte) (e : TransportError) (before : List Event)
    (rest : List BusAnswer) (k : Nat) (t : State) : Prop where
  result : t.result = some (.err (.writeFault e))
  idle : Idle t
  st : t.st = .uninitialized
  addr : t.addr = a
  trace : t.trace = before ++ [.tw a x (.err e)]
  busIn : t.busIn = rest
  delayIn : t.delayIn = k

/-- A run of an uninitialized block that comes to a write which fails stops there. -/
theorem run_failing_write {fin : State → State} {more : List Act} {m r : Byte} {p : List Byte} {s : State}
    {a : DevAddr} {e : TransportError} {before : List Event} {rest : List BusAnswer} {k : Nat} (hp : p.length < 32)
    (hst : s.st = .uninitialized) (haddr : s.addr = a) (htrace : s.trace = before) (hbus : s.busIn = .err e :: rest)
    (hk : s.delayIn = k) : StoppedAtWrite a (m :: r :: p) e before rest k (runActs fin (.tw m r p :: more) s) := by
  subst haddr htrace hk
  rw [runActs_cons_raised (perform_tw_err m r p s e rest hp hbus)]
  exact ⟨rfl, rfl, hst, rfl, rfl, rfl, rfl⟩

/-- Within a body of writes it stops at the first that fails. -/
theorem run_writes_failing {fin : State → State} {w1 w2 : List (Byte × Byte × List Byte)}
    {w : Byte × Byte × List Byte} {s : State} {a : DevAddr} {ds : List (Vector Byte 32)} {e : TransportError}
    {before : List Event} {rest : List BusAnswer} {k : Nat} (hp : ∀ x ∈ w1 ++ w :: w2, x.2.2.length < 32)
    (hst : s.st = .uninitialized) (haddr : s.addr = a) (htrace : s.trace = before) (hlen : ds.length = w1.length)
    (hbus : s.busIn = ds.map BusAnswer.ok ++ .err e :: rest) (hk : s.delayIn = k) :
    StoppedAtWrite a (writeFrame w) e (before ++ w1.map (writeEvent a)) rest k
      (runActs fin ((w1 ++ w :: w2).map writeAct) s) := by
  subst haddr htrace hk
  rw [List.map_append, runActs_append,
    run_writes _ w1 s ds (.err e :: rest) (fun x hx => hp x (List.mem_append_left _ hx)) hlen hbus]
  exact run_failing_write (hp w (by simp)) hst rfl rfl rfl rfl

/-- Settles O36: the write is one of the two of the identity check, or one of the configuration writes; NEW comes to it
and stops. -/
theorem failingWriteStopsBringUp : Obligations.FailingWriteStopsBringUp := by
  intro a x pre post s oks e rest k hi hst htrace hlen hid hbus hk
  suffices h : ∃ t, exec (.new a) s = .next t ∧ StoppedAtWrite a x e (s.trace ++ pre) rest k t by
    obtain ⟨t, ht, h⟩ := h
    exact ⟨t, ht, h.result, h.idle, h.st, h.addr, h.trace, h.busIn, h.delayIn⟩
  cases ht : s.cfg.tier with
  | lite =>
    rw [newTrace_lite ht] at htrace
    obtain ⟨w1, w, w2, hw, rfl, rfl⟩ := map_writeEvent_split htrace
    obtain ⟨hdelays, hrequests⟩ := countP_writeEvent a w1
    rw [hrequests] at hlen
    rw [hdelays] at hk
    rw [exec_new hi hst, newBody_lite_writes ht, hw]
    exact ⟨_, rfl, run_writes_failing (hw ▸ ledSetupWrites_fit s.cfg) hst rfl rfl hlen hbus hk⟩
  | full =>
    rw [newTrace_full ht] at htrace
    rcases identityTrace_split htrace with ⟨rfl, rfl⟩ | ⟨rfl, rfl⟩ | ⟨pre', rfl, htrace'⟩
    · obtain rfl : oks = [] := List.length_eq_zero_iff.1 hlen
      rw [exec_new hi hst, newBody_full_writes ht, List.append_nil]
      exact ⟨_, rfl, run_failing_write (by decide) hst rfl rfl hbus hk⟩
    · obtain ⟨d1, rfl⟩ := List.length_eq_one_iff.1 hlen
      rw [exec_new_identityAddress hi hst ht hbus hk]
      exact ⟨_, rfl, run_failing_write (by decide) hst rfl rfl rfl rfl⟩
    · obtain ⟨w1, w, w2, hw, rfl, rfl⟩ := map_writeEvent_split htrace'
      obtain ⟨hdelays, hrequests⟩ := countP_writeEvent a w1
      have hlen' : oks.length = w1.length + 3 := by
        rw [hlen, List.countP_append, hrequests, Nat.add_comm]
        rfl
      have hk' : s.delayIn = k + 2 := by
        rw [hk, List.countP_append, hdelays]
        rfl
      obtain ⟨d1, oks1, rfl⟩ := List.exists_cons_of_length_eq_add_one hlen'
      obtain ⟨d2, oks2, rfl⟩ := List.exists_cons_of_length_eq_add_one (Nat.succ.inj hlen')
      obtain ⟨d3, oks3, rfl⟩ := List.exists_cons_of_length_eq_add_one (Nat.succ.inj (Nat.succ.inj hlen'))
      have hid3 : d3[0] = s.cfg.hwIdCode := hid d3 rfl
      rw [exec_new_configWrites hi hst ht hid3 hbus hk', hw, ← List.append_assoc, ← hid3]
      exact ⟨_, rfl, run_writes_failing (hw ▸ configWrites_fit s.cfg) hst rfl
        (afterIdentityRead_trace a d3[0] s _ _ k) (by simpa using hlen') rfl rfl⟩

/-! ### NEW that ended without Ok -/

/-- The body of bring-up raises nothing of itself. -/
theorem newBody_not_raise (c : Config) : ∀ act ∈ newBody c, ∀ k, act ≠ .raise k := by
  have hwrites : ∀ b : List (Byte × Byte × List Byte), ∀ act ∈ b.map writeAct, ∀ k, act ≠ .raise k := by
    intro b act hact k
    obtain ⟨x, -, rfl⟩ := List.mem_map.1 hact
    exact nofun
  cases ht : c.tier with
  | full =>
    rw [newBody_full_writes ht]
    simpa using hwrites (configWrites c)
  | lite =>
    rw [newBody_lite_writes ht]
    exact hwrites (ledSetupWrites c)

/-- What an act that is no raise of itself raises is recoverable (60_exceptions.md R210, R211, R212). -/
theorem perform_raised_recoverable {act : Act} {s t : State} {k : ErrKind} (hf : act.Fits)
    (hnr : ∀ k, act ≠ .raise k) (h : perform act s = .raised k t) :
    (∃ e, k = .writeFault e) ∨ (∃ e, k = .readFault e) ∨ k = .wrongIdentity := by
  obtain ⟨es, -, hk⟩ := perform_raised hf h
  rcases hk with ⟨-, -, -, e, -, rfl, -⟩ | ⟨-, -, e, -, rfl, -⟩ | ⟨-, -, -, e, -, rfl, -⟩ | ⟨-, -, -, -, rfl, -⟩ |
    ⟨hraise, -⟩
  · exact .inl ⟨e, rfl⟩
  · exact .inr (.inl ⟨e, rfl⟩)
  · exact .inr (.inl ⟨e, rfl⟩)
  · exact .inr (.inr rfl)
  · exact absurd hraise (hnr k)

/-- Settles O38: a run of NEW that neither reached its end nor waits was stopped by an act of the body, and what
such an act raises is recoverable. -/
theorem failedBringUpStaysUninitialized : Obligations.FailedBringUpStaysUninitialized := by
  intro a s t hi hst h hidle hres
  rw [(exec_allowed hi hst : exec (.new a) s = _), run_startState, Host.Outcome.next.injEq] at h
  subst h
  rcases resume_cases (.new a) (startState (.new a) s) with ⟨s', -, he⟩ |
    ⟨pre, act, post, s', k, s'', hbody, hw, hf, hp, he⟩ | ⟨pre, act, post, s', s'', -, hw, -, hp, he⟩
  · exact absurd (congrArg State.result he) hres
  · have hbody : newBody s.cfg = pre ++ act :: post := hbody
    have hact : act ∈ newBody s.cfg := by simp [hbody]
    obtain ⟨es, hstop, -⟩ := perform_raised hf hp
    have hst'' : s''.st = .uninitialized := hstop.st.trans (hw.st.trans hst)
    have haddr : s''.addr = a := hstop.addr.trans hw.addr
    rw [he]
    rcases perform_raised_recoverable hf (newBody_not_raise s.cfg act hact) hp with ⟨e, rfl⟩ | ⟨e, rfl⟩ | rfl
    · exact ⟨hst'', haddr, .inl ⟨e, rfl⟩⟩
    · exact ⟨hst'', haddr, .inr (.inl ⟨e, rfl⟩)⟩
    · exact ⟨hst'', haddr, .inr (.inr rfl)⟩
  · obtain ⟨hs'', -, -⟩ := perform_waiting hp
    have hcur : (resume (.new a) (startState (.new a) s)).current = some (.new a) := by
      rw [he, hs'']
      exact hw.current
    exact absurd (hcur.symm.trans hidle) nofun

end Sys2Proof.Machine
end

section
/-! PROOFS. The ready-state commands on their own: the pixel write, the show, the two keypad reads and what they are
refused for (45_ready_ops.md R190 to R193, R196). -/

namespace Sys2Proof.Machine

/-! ### A command its checks let run -/

/-- SET_LED_COLOR of an index below 16 runs its body in Ready. -/
theorem exec_setLedColor {index : Byte} {s : State} (hi : Idle s) (hst : s.st = .ready) (hlt : index.toNat < 16)
    (r g b : Byte) :
    exec (.setLedColor index r g b) s =
      .next (runActs finishUnit (setLedColorBody index r g b) (s.accept (.setLedColor index r g b))) :=
  exec_allowed hi ⟨hst, hlt⟩

/-- SHOW_LED runs its body in Ready. -/
theorem exec_showLed {s : State} (hi : Idle s) (hst : s.st = .ready) :
    exec .showLed s = .next (runActs finishUnit (showLedBody s.cfg) (s.accept .showLed)) :=
  exec_allowed hi hst

/-- READ_KEY_EVENTS runs its body in Ready on Full, whatever its slot count. -/
theorem exec_readKeyEvents {s : State} (hi : Idle s) (hst : s.st = .ready) (ht : s.cfg.tier = .full) (n : Byte) :
    exec (.readKeyEvents n) s =
      .next (runActs (readKeyEventsFinish n) (readRegisterActs s.cfg 0x10 s.cfg.regKeypadFifo n.toNat none)
        (s.accept (.readKeyEvents n))) :=
  exec_allowed hi ⟨hst, ht⟩

/-- KEYPAD_COUNT runs its body in Ready on Full. -/
theorem exec_keypadCount {s : State} (hi : Idle s) (hst : s.st = .ready) (ht : s.cfg.tier = .full) :
    exec .keypadCount s =
      .next (runActs finishByte (readRegisterActs s.cfg 0x10 s.cfg.regKeypadCount 1 none) (s.accept .keypadCount)) :=
  exec_allowed hi ⟨hst, ht⟩

/-! ### Refusals -/

/-- A failed check of an idle block's command ends it with nothing sent (60_exceptions.md R213, R216). -/
theorem command_refused {i : Instr} {offered : Bool} {needs : Lifecycle} {operand : Option ContractReason}
    {prepare : State → State} {body : List Act} {fin : State → State} {s : State} {why : ContractReason} (hi : Idle s)
    (hwhy : commandCheck offered needs operand s = some why) :
    command i offered needs operand prepare body fin s = refusedWith why s := by
  have hi' : s.current = none := hi
  rw [command, hi', hwhy]
  exact raise_accept hi i _

theorem ledIndexCheck_of_ge {index : Byte} (h : 16 ≤ index.toNat) : ledIndexCheck index = some .ledIndexRange :=
  if_neg (Nat.not_lt.2 h)

/-- Settles O40: in Ready the index check is the one that decides. -/
theorem ledIndexOutOfRangeIsRefused : Obligations.LedIndexOutOfRangeIsRefused := by
  intro index r g b s hi hst hge
  have hwhy : commandCheck true .ready (ledIndexCheck index) s = some .ledIndexRange := by
    rw [commandCheck_ok (by decide) rfl hst, ledIndexCheck_of_ge hge]
  exact congrArg _ (command_refused hi hwhy)

/-- Settles O44: the command is allowed, and its body is the length check of the primitive, which raises. -/
theorem tooManySlotsAreRefused : Obligations.TooManySlotsAreRefused := by
  intro n s hi hst ht hn
  rw [exec_readKeyEvents hi hst ht, readRegisterActs_long hn, runActs_cons_raised (perform_raise _ _)]
  exact congrArg _ (raise_accept hi _ _)

/-! ### The LEDs -/

/-- The two bytes of the LED offset of an index below 16, as the quotient and the remainder by 256. -/
theorem ledOffset_bytes {index : Byte} (h : index.toNat < 16) :
    BitVec.ofNat 8 (index.toNat * 3 / 256) = 0x00 ∧
      BitVec.ofNat 8 (index.toNat * 3 % 256) = BitVec.ofNat 8 (3 * index.toNat) := by
  rw [Nat.div_eq_of_lt (by omega), Nat.mod_eq_of_lt (by omega), Nat.mul_comm]
  exact ⟨rfl, rfl⟩

/-- Settles O39: the body is one write, whose payload is the offset and the color. -/
theorem setLedColorWritesThePixel : Obligations.SetLedColorWritesThePixel := by
  intro index r g b s d rest hi hst hlt hbus
  obtain ⟨hhi, hlo⟩ := ledOffset_bytes hlt
  rw [exec_setLedColor hi hst hlt, setLedColorBody_eq hlt, run_write hi (by simp) hbus, hhi, hlo]

theorem showLedBody_full {c : Config} (ht : c.tier = .full) :
    showLedBody c = [.tw 0x0E c.regLedShow [], .dly 8] := by
  rw [showLedBody, ht]
  rfl

theorem showLedBody_lite {c : Config} (ht : c.tier = .lite) : showLedBody c = [.tw 0x0E c.regLedShow []] := by
  rw [showLedBody, ht]
  rfl

/-- Settles O41: on Lite the body is one write, on Full the same write and its delay. -/
theorem showLedWritesAndSettles : Obligations.ShowLedWritesAndSettles := by
  intro s d rest hi hst hbus
  refine ⟨fun ht => ?_, fun ht k hk => ?_⟩
  · rw [exec_showLed hi hst, showLedBody_lite ht, run_write hi (by decide) hbus]
  · rw [exec_showLed hi hst, showLedBody_full ht, run_settledWrite (s := s.accept .showLed) (by decide) hbus hk, runActs]
    have hi' : s.current = none := hi
    refine congrArg _ ?_
    ext1 <;> simp [finishUnit, afterSettledWrite, afterWrite, hi']

/-! ### The keypad -/

/-- Settles O45: the body is a read of one byte, and its end returns the first byte of RB. -/
theorem keypadCountReturnsTheByte : Obligations.KeypadCountReturnsTheByte := by
  intro s d0 d rest k hi hst ht hbus hk
  rw [exec_keypadCount hi hst ht, readRegisterActs_full ht (by decide), run_read_full hbus hk,
    finishByte_of_first (first_received d s.rb), finish_readFullDone hi, take_one]

/-- READ_KEY_EVENTS of at most 32 slots, answered `Ok` twice, ends with what the bytes read decode to. -/
theorem exec_readKeyEvents_answered {n : Byte} {s : State} {d0 d : Vector Byte 32} {rest : List BusAnswer} {k : Nat}
    (hi : Idle s) (hst : s.st = .ready) (ht : s.cfg.tier = .full) (hn : n.toNat ≤ 32)
    (hbus : s.busIn = .ok d0 :: .ok d :: rest) (hk : s.delayIn = k + 1) :
    exec (.readKeyEvents n) s =
      .next ((readFullDone (.readKeyEvents n) 0x10 s.cfg.regKeypadFifo n.toNat d rest k s).conclude
        ((decodeSlots (d.toList.take n.toNat)).map Value.slots)) := by
  rw [exec_readKeyEvents hi hst ht, readRegisterActs_full ht hn, run_read_full hbus hk, readKeyEventsFinish,
    received_readFullDone _ _ _ _ _ _ _ _ hn]

/-- Settles O42: the bytes read decode slot by slot. -/
theorem readKeyEventsReturnsTheSlots : Obligations.ReadKeyEventsReturnsTheSlots := by
  intro n s d0 d rest k hi hst ht hn hbus hk hwf
  rw [exec_readKeyEvents_answered hi hst ht hn hbus hk, decodeSlots_wellFormed hwf]
  exact congrArg _ (finish_readFullDone hi _)

/-- A malformed byte is neither the sentinel nor has it bits 7 and 4 clear (42_event_codec.md R148). -/
theorem wellFormedEvent_eq_false {b : Byte} : wellFormedEvent b = false ↔ b ≠ 0xFF ∧ b &&& 0x90 ≠ 0 := by
  simp [wellFormedEvent]

/-- One malformed byte anywhere is enough to return no slots (45_ready_ops.md R192). -/
theorem decodeSlots_malformed {bs : List Byte} (h : ∃ b ∈ bs, wellFormedEvent b = false) :
    decodeSlots bs = .error (.decodeFault .malformedKey) := by
  induction bs with
  | nil => simp at h
  | cons b bs ih =>
    cases hb : wellFormedEvent b with
    | false =>
      obtain ⟨hne, hbits⟩ := wellFormedEvent_eq_false.1 hb
      rw [decodeSlots, eventDecode_malformed b hne hbits]
    | true =>
      have htail : ∃ x ∈ bs, wellFormedEvent x = false := by simpa [hb] using h
      rw [decodeSlots, eventDecode_wellFormed b hb, ih htail]

/-- Settles O43: the bytes read decode to the error of the malformed one, which is fail-fast. -/
theorem malformedEventByteFaults : Obligations.MalformedEventByteFaults := by
  intro n s d0 d rest k hi hst ht hn hbus hk hbad
  have hi' : s.current = none := hi
  rw [exec_readKeyEvents_answered hi hst ht hn hbus hk, decodeSlots_malformed hbad]
  refine congrArg _ ?_
  ext1 <;> simp [Except.map, readFullDone, afterReadFull, ErrKind.failFast, hi']

end Sys2Proof.Machine
end

section
/-! PROOFS. Two blocks given the same command, whose buffers, results and earlier traces differ: one relation that holds
as the command is accepted and is kept to its end (45_ready_ops.md R195). -/

namespace Sys2Proof.Machine

/-! ### The relation -/

/-- The states of two blocks in the course of one command, which found the traces `b₁` and `b₂`: the same but for the
staging buffers, the results while it runs, and those two traces; what has come to the traces since is the same. -/
structure Alike (b₁ b₂ : List Event) (s₁ s₂ : State) : Prop where
  st : s₁.st = s₂.st
  addr : s₁.addr = s₂.addr
  cfg : s₁.cfg = s₂.cfg
  current : s₁.current = s₂.current
  seq : s₁.seq = s₂.seq
  busIn : s₁.busIn = s₂.busIn
  delayIn : s₁.delayIn = s₂.delayIn
  trace : ∃ es, s₁.trace = b₁ ++ es ∧ s₂.trace = b₂ ++ es
  result : Idle s₁ → s₁.result = s₂.result

section
variable {b₁ b₂ : List Event} {s₁ s₂ : State}

/-- Blocks that agree on what a command reads are alike once they accept it. -/
theorem Alike.accept (hst : s₁.st = s₂.st) (hcfg : s₁.cfg = s₂.cfg) (haddr : s₁.addr = s₂.addr)
    (hbus : s₁.busIn = s₂.busIn) (hdelay : s₁.delayIn = s₂.delayIn) (i : Instr) :
    Alike s₁.trace s₂.trace (s₁.accept i) (s₂.accept i) :=
  ⟨hst, haddr, hcfg, rfl, rfl, hbus, hdelay, ⟨[], by simp⟩, nofun⟩

theorem Alike.stage (h : Alike b₁ b₂ s₁ s₂) (xs : List Byte) : Alike b₁ b₂ (s₁.stage xs) (s₂.stage xs) :=
  { h with }

theorem Alike.receive (h : Alike b₁ b₂ s₁ s₂) (bs : List Byte) : Alike b₁ b₂ (s₁.receive bs) (s₂.receive bs) :=
  { h with }

theorem Alike.answered (h : Alike b₁ b₂ s₁ s₂) (rest : List BusAnswer) :
    Alike b₁ b₂ (s₁.answered rest) (s₂.answered rest) :=
  { h with busIn := rfl }

theorem Alike.elapsed (h : Alike b₁ b₂ s₁ s₂) (k : Nat) : Alike b₁ b₂ (s₁.elapsed k) (s₂.elapsed k) :=
  { h with delayIn := rfl }

theorem Alike.advance (h : Alike b₁ b₂ s₁ s₂) : Alike b₁ b₂ s₁.advance s₂.advance :=
  { h with seq := congrArg (· + 1) h.seq }

theorem Alike.log (h : Alike b₁ b₂ s₁ s₂) (e : Event) : Alike b₁ b₂ (s₁.log e) (s₂.log e) := by
  obtain ⟨es, h₁, h₂⟩ := h.trace
  exact { h with trace := ⟨es ++ [e], by simp [h₁], by simp [h₂]⟩ }

theorem Alike.finish (h : Alike b₁ b₂ s₁ s₂) (r : Result) : Alike b₁ b₂ (s₁.finish r) (s₂.finish r) :=
  { h with current := rfl, seq := rfl, result := fun _ => rfl }

theorem Alike.raise (h : Alike b₁ b₂ s₁ s₂) (k : ErrKind) : Alike b₁ b₂ (s₁.raise k) (s₂.raise k) :=
  { h.finish (.err k) with st := by simp [h.st] }

theorem Alike.conclude (h : Alike b₁ b₂ s₁ s₂) (r : Except ErrKind Value) :
    Alike b₁ b₂ (s₁.conclude r) (s₂.conclude r) := by
  cases r with
  | ok v => exact h.finish (.ok v)
  | error k => exact h.raise k

/-! ### One act -/

/-- How many bytes of RB an act that goes on has filled. -/
def Act.fills : Act → Nat
  | .tr n _ => n
  | .twr _ _ n => n
  | .tw _ _ _ | .dly _ | .raise _ => 0

/-- Two acts came to the same: both go on, with the same `n` first bytes in RB; both raise one error; or both wait. -/
inductive SameVerdict (b₁ b₂ : List Event) (n : Nat) : Verdict → Verdict → Prop
  | done {s₁ s₂ : State} (h : Alike b₁ b₂ s₁ s₂) (hr : s₁.received n = s₂.received n) :
      SameVerdict b₁ b₂ n (.done s₁) (.done s₂)
  | raised {s₁ s₂ : State} (k : ErrKind) (h : Alike b₁ b₂ s₁ s₂) :
      SameVerdict b₁ b₂ n (.raised k s₁) (.raised k s₂)
  | waiting {s₁ s₂ : State} (h : Alike b₁ b₂ s₁ s₂) : SameVerdict b₁ b₂ n (.waiting s₁) (.waiting s₂)

theorem compareIdentity_alike (h : Alike b₁ b₂ s₁ s₂) {n : Nat} (hr : s₁.received n = s₂.received n)
    (expect : Option Byte) (bs : List Byte) :
    SameVerdict b₁ b₂ n (compareIdentity expect bs s₁) (compareIdentity expect bs s₂) := by
  cases expect with
  | none => exact .done h.advance hr
  | some id =>
    rw [compareIdentity, compareIdentity]
    split
    · exact .done h.advance hr
    · exact .raised _ h

/-- The same act comes to the same: its request is made of its own fields and `addr`, its answer is the same. -/
theorem perform_alike {a : Act} (hf : a.Fits) (h : Alike b₁ b₂ s₁ s₂) :
    SameVerdict b₁ b₂ a.fills (perform a s₁) (perform a s₂) := by
  have hread : ∀ (d : Vector Byte 32) (n : Nat), n ≤ 32 →
      (overlay (d.toList.take n) s₁.rb).toList.take n = (overlay (d.toList.take n) s₂.rb).toList.take n := by
    intro d n hn
    rw [take_overlay_take d s₁.rb n hn, take_overlay_take d s₂.rb n hn]
  cases a with
  | tw m r p =>
    cases hb : s₂.busIn with
    | nil =>
      rw [perform_tw_wait m r p s₁ (h.busIn.trans hb), perform_tw_wait m r p s₂ hb]
      exact .waiting (h.stage _)
    | cons x rest =>
      cases x with
      | err e =>
        rw [perform_tw_err m r p s₁ e rest hf (h.busIn.trans hb), perform_tw_err m r p s₂ e rest hf hb, h.addr]
        exact .raised _ (((h.stage _).answered rest).log _)
      | ok d =>
        rw [perform_tw_ok m r p s₁ d rest hf (h.busIn.trans hb), perform_tw_ok m r p s₂ d rest hf hb, h.addr]
        exact .done (((h.stage _).answered rest).log _).advance rfl
  | tr n expect =>
    cases hb : s₂.busIn with
    | nil =>
      rw [perform_tr_wait n expect s₁ (h.busIn.trans hb), perform_tr_wait n expect s₂ hb]
      exact .waiting h
    | cons x rest =>
      cases x with
      | err e =>
        rw [perform_tr_err n expect s₁ e rest (h.busIn.trans hb), perform_tr_err n expect s₂ e rest hb, h.addr]
        exact .raised _ ((h.answered rest).log _)
      | ok d =>
        rw [perform_tr_ok n expect s₁ d rest (h.busIn.trans hb), perform_tr_ok n expect s₂ d rest hb, h.addr]
        exact compareIdentity_alike (((h.answered rest).receive _).log _) (hread d n hf) expect _
  | twr m r n =>
    cases hb : s₂.busIn with
    | nil =>
      rw [perform_twr_wait m r n s₁ (h.busIn.trans hb), perform_twr_wait m r n s₂ hb]
      exact .waiting (h.stage _)
    | cons x rest =>
      cases x with
      | err e =>
        rw [perform_twr_err m r n s₁ e rest (h.busIn.trans hb), perform_twr_err m r n s₂ e rest hb, h.addr]
        exact .raised _ (((h.stage _).answered rest).log _)
      | ok d =>
        rw [perform_twr_ok m r n s₁ d rest (h.busIn.trans hb), perform_twr_ok m r n s₂ d rest hb, h.addr]
        exact .done ((((h.stage _).answered rest).receive _).log _).advance (hread d n hf)
  | dly ms =>
    cases hd : s₂.delayIn with
    | zero =>
      rw [perform_dly_wait ms s₁ (h.delayIn.trans hd), perform_dly_wait ms s₂ hd]
      exact .waiting h
    | succ k =>
      rw [perform_dly_done ms s₁ k (h.delayIn.trans hd), perform_dly_done ms s₂ k hd]
      exact .done ((h.elapsed k).log _).advance rfl
  | raise k => exact .raised k h

/-! ### A whole body -/

/-- Where what follows an act keeps blocks alike, with the bytes the act read, the act and what follows it do. -/
theorem runActs_cons_alike {fin : State → State} {a : Act} {rest : List Act} (hf : a.Fits)
    (h : Alike b₁ b₂ s₁ s₂)
    (hrest : ∀ {t₁ t₂ : State}, Alike b₁ b₂ t₁ t₂ → t₁.received a.fills = t₂.received a.fills →
      Alike b₁ b₂ (runActs fin rest t₁) (runActs fin rest t₂)) :
    Alike b₁ b₂ (runActs fin (a :: rest) s₁) (runActs fin (a :: rest) s₂) := by
  have hv := perform_alike hf h
  rw [runActs, runActs]
  generalize perform a s₁ = v₁, perform a s₂ = v₂ at hv ⊢
  cases hv with
  | done h hr => exact hrest h hr
  | raised k h => exact h.raise k
  | waiting h => exact h

/-- A body whose end reads no buffer keeps blocks alike. -/
theorem runActs_alike {fin : State → State} {acts : List Act} (hf : ∀ a ∈ acts, a.Fits)
    (hfin : ∀ {t₁ t₂ : State}, Alike b₁ b₂ t₁ t₂ → Alike b₁ b₂ (fin t₁) (fin t₂)) (h : Alike b₁ b₂ s₁ s₂) :
    Alike b₁ b₂ (runActs fin acts s₁) (runActs fin acts s₂) := by
  induction acts generalizing s₁ s₂ with
  | nil => exact hfin h
  | cons a rest ih =>
    exact runActs_cons_alike (hf a (by simp)) h (fun h _ => ih (fun b hb => hf b (by simp [hb])) h)

/-- A call of READ_REGISTER keeps blocks alike, and its end may read the bytes it read. -/
theorem readRegisterActs_alike {fin : State → State} {n : Nat} (c : Config) (m r : Byte)
    (hfin : ∀ {t₁ t₂ : State}, Alike b₁ b₂ t₁ t₂ → t₁.received n = t₂.received n → Alike b₁ b₂ (fin t₁) (fin t₂))
    (h : Alike b₁ b₂ s₁ s₂) :
    Alike b₁ b₂ (runActs fin (readRegisterActs c m r n none) s₁) (runActs fin (readRegisterActs c m r n none) s₂) := by
  rcases Nat.lt_or_ge 32 n with hn | hn
  · rw [readRegisterActs_long hn]
    exact h.raise _
  · cases ht : c.tier with
    | full =>
      rw [readRegisterActs_full ht hn]
      exact runActs_cons_alike (by simp [Act.Fits]) h fun h _ => runActs_cons_alike trivial h fun h _ =>
        runActs_cons_alike hn h hfin
    | lite =>
      rw [readRegisterActs_lite ht hn]
      exact runActs_cons_alike hn h hfin

/-! ### A command -/

theorem finishByte_alike (h : Alike b₁ b₂ s₁ s₂) (hr : s₁.received 1 = s₂.received 1) :
    Alike b₁ b₂ (finishByte s₁) (finishByte s₂) := by
  have hbyte : s₁.rb[0] = s₂.rb[0] := by
    rw [State.received, State.received, take_one, take_one] at hr
    exact List.head_eq_of_cons_eq hr
  rw [finishByte, finishByte, hbyte]
  exact h.finish _

theorem readKeyEventsFinish_alike {n : Byte} (h : Alike b₁ b₂ s₁ s₂)
    (hr : s₁.received n.toNat = s₂.received n.toNat) :
    Alike b₁ b₂ (readKeyEventsFinish n s₁) (readKeyEventsFinish n s₂) := by
  rw [readKeyEventsFinish, readKeyEventsFinish, hr]
  exact h.conclude _

/-- A command's checks read nothing of the state but `st` (60_exceptions.md R213), so two blocks refuse it for one
reason, or both run it. -/
theorem command_alike {i : Instr} {offered : Bool} {needs : Lifecycle} {operand : Option ContractReason}
    {prepare : State → State} {body : List Act} {fin : State → State} (hi₁ : Idle s₁) (hi₂ : Idle s₂)
    (h : Alike b₁ b₂ (s₁.accept i) (s₂.accept i))
    (hrun : s₁.st = needs → Alike b₁ b₂ (runActs fin body (prepare (s₁.accept i)))
      (runActs fin body (prepare (s₂.accept i)))) :
    Alike b₁ b₂ (command i offered needs operand prepare body fin s₁)
      (command i offered needs operand prepare body fin s₂) := by
  have hi₁ : s₁.current = none := hi₁
  have hi₂ : s₂.current = none := hi₂
  have hst : s₁.st = s₂.st := h.st
  have hcheck : commandCheck offered needs operand s₂ = commandCheck offered needs operand s₁ := by
    rw [commandCheck, commandCheck, hst]
  rw [command, command, hi₁, hi₂, hcheck]
  cases hc : commandCheck offered needs operand s₁ with
  | some why => exact h.raise (.contractViolation why)
  | none =>
    obtain ⟨-, -, hneeds, -⟩ := commandCheck_none hc
    exact hrun hneeds

/-- A reserved opcode is refused by `st` alone, too. -/
theorem reservedCommand_alike {i : Instr} (hi₁ : Idle s₁) (hi₂ : Idle s₂)
    (h : Alike b₁ b₂ (s₁.accept i) (s₂.accept i)) : Alike b₁ b₂ (reservedCommand s₁) (reservedCommand s₂) := by
  have hi₁ : s₁.current = none := hi₁
  have hi₂ : s₂.current = none := hi₂
  have hst : s₁.st = s₂.st := h.st
  rw [reservedCommand, reservedCommand, hi₁, hi₂, hst]
  exact h.raise _

/-- Every command keeps two Ready blocks alike to its end, or to the request it waits at. -/
theorem exec_alike {i : Instr} (hi : i.isCommand = true) (hi₁ : Idle s₁) (hi₂ : Idle s₂) (hst : s₁.st = .ready)
    (h : Alike b₁ b₂ (s₁.accept i) (s₂.accept i)) :
    ∃ t₁ t₂, exec i s₁ = .next t₁ ∧ exec i s₂ = .next t₂ ∧ Alike b₁ b₂ t₁ t₂ := by
  have hcfg : s₁.cfg = s₂.cfg := h.cfg
  cases i
  case new a =>
    refine ⟨_, _, rfl, rfl, ?_⟩
    rw [hcfg]
    exact command_alike hi₁ hi₂ h fun hneeds => absurd (hst.symm.trans hneeds) nofun
  case setLedColor index r g b =>
    refine ⟨_, _, rfl, rfl, command_alike hi₁ hi₂ h fun _ => ?_⟩
    exact runActs_alike (writeRegisterActs_fits _ _ _) (fun h => h.finish _) h
  case showLed =>
    refine ⟨_, _, rfl, rfl, ?_⟩
    rw [hcfg]
    exact command_alike hi₁ hi₂ h fun _ => runActs_alike (bodyOf_fits s₂.cfg .showLed) (fun h => h.finish _) h
  case readKeyEvents n =>
    refine ⟨_, _, rfl, rfl, ?_⟩
    rw [hcfg]
    exact command_alike hi₁ hi₂ h fun _ => readRegisterActs_alike s₂.cfg _ _ readKeyEventsFinish_alike h
  case keypadCount =>
    refine ⟨_, _, rfl, rfl, ?_⟩
    rw [hcfg]
    exact command_alike hi₁ hi₂ h fun _ => readRegisterActs_alike s₂.cfg _ _ finishByte_alike h
  case cmdReserved x => exact ⟨_, _, rfl, rfl, reservedCommand_alike hi₁ hi₂ h⟩
  all_goals simp [Instr.isCommand] at hi

end

/-- Settles O52: the two blocks are alike once they accept the command, and the command keeps them so. -/
theorem readyCommandsAreIndependent : Obligations.ReadyCommandsAreIndependent := by
  intro i s₁ s₂ t₁ t₂ hi hi₁ hi₂ hst₁ hst₂ hcfg haddr hbus hdelay h₁ h₂
  obtain ⟨u₁, u₂, hu₁, hu₂, h⟩ :=
    exec_alike hi hi₁ hi₂ hst₁ (Alike.accept (hst₁.trans hst₂.symm) hcfg haddr hbus hdelay i)
  obtain rfl : t₁ = u₁ := Host.Outcome.next.inj (h₁.symm.trans hu₁)
  obtain rfl : t₂ = u₂ := Host.Outcome.next.inj (h₂.symm.trans hu₂)
  exact ⟨h.trace, h.st, h.current, h.seq, h.busIn, h.delayIn, h.result⟩

end Sys2Proof.Machine
end

section
/-! PROOFS. Errors as results (60_exceptions.md): every step has a next state, a failing request raises the fault of its
half, a refused command follows the matrix of R225, what a step does to the lifecycle state, and what an operation adds to
the trace. -/

namespace Sys2Proof.Machine

/-! ### The next state -/

/-- Settles O6: a step resets the block, takes up an operation, waits, lets a packet go by or runs an instruction. -/
theorem nothingStopsTheMachine : Obligations.NothingStopsTheMachine := by
  refine ⟨exec_next, fun s => ?_⟩
  rcases step_cases s with ⟨-, h⟩ | ⟨-, i, -, h⟩ | ⟨-, -, -, h⟩ | ⟨-, -, p, rest, why, -, -, h⟩ |
    ⟨-, -, p, rest, i, -, -, h⟩
  · exact ⟨_, h⟩
  · exact ⟨_, h⟩
  · exact ⟨_, h⟩
  · exact ⟨_, h⟩
  · rw [h]
    exact exec_next i _

/-- Settles O7: the other two outcomes of an instruction, its refusal and its run, ask for a block at rest. -/
theorem busyBlockTakesNoInstruction : Obligations.BusyBlockTakesNoInstruction := by
  intro i j s hj
  rcases exec_cases i s with ⟨-, -, h⟩ | ⟨hn, -⟩ | ⟨hn, -⟩
  · exact h
  · exact absurd (hj.symm.trans hn) nofun
  · exact absurd (hj.symm.trans hn) nofun

/-! ### A failing request -/

/-- But for NEW, an instruction its checks allow runs its body from its acceptance. -/
theorem exec_accept {i : Instr} {s : State} (hi : Idle s) (ha : Allowed i s) (hnew : ∀ a, i ≠ .new a) :
    exec i s = .next (runActs (finishOf i) (bodyOf s.cfg i) (s.accept i)) := by
  have hstart : startState i s = s.accept i := by
    cases i
    case new a => exact absurd rfl (hnew a)
    all_goals rfl
  rw [exec_allowed hi ha, hstart]

/-- But for NEW, an instruction whose body begins with a write ends with that write, when it fails. -/
theorem exec_first_write_fault {i : Instr} {m r : Byte} {p : List Byte} {more : List Act} {s : State}
    {e : TransportError} {rest : List BusAnswer} (hi : Idle s) (ha : Allowed i s) (hnew : ∀ a, i ≠ .new a)
    (hbody : bodyOf s.cfg i = .tw m r p :: more) (hp : p.length < 32) (hbus : s.busIn = .err e :: rest) :
    exec i s = .next (afterWriteFault (m :: r :: p) e rest s) := by
  rw [exec_accept hi ha hnew, hbody, run_write_fault hi hp hbus]

/-- The frame the table of 30_encoding.md R92 gives an instruction is the first act of its body. -/
theorem bodyOf_of_writeFrameOf {i : Instr} {s : State} {x : List Byte} (ha : Allowed i s)
    (h : writeFrameOf s.cfg i = some x) :
    ∃ m r p more, bodyOf s.cfg i = .tw m r p :: more ∧ p.length < 32 ∧ x = m :: r :: p := by
  cases i
  case setLedColor index r g b =>
    obtain ⟨-, hlt⟩ := ha
    obtain ⟨hhi, hlo⟩ := ledOffset_bytes hlt
    rw [writeFrameOf, hhi, hlo, Option.some.injEq] at h
    exact ⟨_, _, _, _, setLedColorBody_eq hlt r g b, by simp, h.symm⟩
  case writeRegister m r p =>
    obtain ⟨hp, hx⟩ : p.length < 32 ∧ m :: r :: p = x := by simpa [writeFrameOf] using h
    exact ⟨m, r, p, [], writeRegisterActs_short hp, hp, hx.symm⟩
  case showLed | swrst | ledPin | ledBufLength | ledBuf | ledShow | keypadEvent =>
    cases h
    exact ⟨_, _, _, _, rfl, by simp [be16], rfl⟩
  all_goals exact absurd h nofun

/-- Settles O29: the body begins with the write of the instruction's frame. -/
theorem failingWriteRaisesWriteFault : Obligations.FailingWriteRaisesWriteFault := by
  intro i x s e rest hi ha hx hbus
  have hnew : ∀ a, i ≠ .new a := by
    rintro a rfl
    exact absurd hx nofun
  obtain ⟨m, r, p, more, hbody, hp, rfl⟩ := bodyOf_of_writeFrameOf ha hx
  exact exec_first_write_fault hi ha hnew hbody hp hbus

/-- The read the table gives an instruction is its whole body. -/
theorem bodyOf_of_readOf {c : Config} {i : Instr} {m r : Byte} {n : Nat} (h : readOf c i = some (m, r, n)) :
    bodyOf c i = readRegisterActs c m r n none := by
  cases i
  case readKeyEvents | keypadCount | readRegister | hwId | keypadCountReg | keypadFifo =>
    cases h
    rfl
  all_goals exact absurd h nofun

/-- Settles O30: the body is one read sequence of the tier, stopped at its write, at its read or at its one
transaction. -/
theorem failingReadRaisesTheHalfsFault : Obligations.FailingReadRaisesTheHalfsFault := by
  intro i m r n s e rest hi ha hread hn
  have hnew : ∀ a, i ≠ .new a := by
    rintro a rfl
    exact absurd hread nofun
  have hbody := bodyOf_of_readOf hread
  refine ⟨fun ht hbus => ?_, fun ht d0 k hbus hk => ?_, fun ht hbus => ?_⟩
  · rw [readRegisterActs_full ht hn] at hbody
    exact exec_first_write_fault hi ha hnew hbody (by decide) hbus
  · rw [exec_accept hi ha hnew, hbody, readRegisterActs_full ht hn, run_read_full_fault hi hbus hk]
    exact ⟨_, rfl, rfl, rfl, hi, rfl, rfl⟩
  · rw [exec_accept hi ha hnew, hbody, readRegisterActs_lite ht hn, run_read_lite_fault hi hbus]
    exact ⟨_, rfl, rfl, rfl, hi, rfl, rfl⟩

/-! ### The matrix of refusals (60_exceptions.md R225) -/

theorem commandCheck_new (s : State) : commandCheck true .uninitialized none s = newRefusal s.st := by
  cases hst : s.st <;> simp [commandCheck, newRefusal, hst]

/-- The checks before the operand's decide every refusal of the LED commands' rows. -/
theorem commandCheck_led {s : State} {why : ContractReason} (h : ledRefusal s.st = some why)
    (operand : Option ContractReason) : commandCheck true .ready operand s = some why := by
  cases hst : s.st <;> simp_all [commandCheck, ledRefusal]

theorem commandCheck_keypad (s : State) :
    commandCheck (keypadOffered s.cfg) .ready none s = keypadRefusal s.cfg.tier s.st := by
  cases ht : s.cfg.tier <;> cases hst : s.st <;> simp [commandCheck, keypadRefusal, keypadOffered, ht, hst]

/-- Settles O31: each row of the matrix is what the checks of its command answer. -/
theorem refusedCommandsFollowTheMatrix : Obligations.RefusedCommandsFollowTheMatrix := by
  intro i s why hi hwhy
  cases i
  case new a => exact congrArg _ (command_refused hi ((commandCheck_new s).trans hwhy))
  case setLedColor index r g b => exact congrArg _ (command_refused hi (commandCheck_led hwhy (ledIndexCheck index)))
  case showLed => exact congrArg _ (command_refused hi (commandCheck_led hwhy none))
  case readKeyEvents | keypadCount => exact congrArg _ (command_refused hi ((commandCheck_keypad s).trans hwhy))
  all_goals exact absurd hwhy nofun

/-! ### The lifecycle state (60_exceptions.md R228) -/

/-- `i` is a NEW that took the block from Uninitialized to Ready and ended Ok. -/
structure BringsUp (i : Instr) (s t : State) : Prop where
  isNew : ∃ a, i = .new a
  before : s.st = .uninitialized
  after : t.st = .ready
  result : t.result = some (.ok .unit)
  idle : Idle t

/-- NEW taken up again keeps `st` unless it reaches its end: what stops it is recoverable, and where it waits it is still
at work. -/
theorem resume_new_lifecycle (a : DevAddr) (s : State) (hst : s.st = .uninitialized) :
    (resume (.new a) s).st = s.st ∨ BringsUp (.new a) s (resume (.new a) s) := by
  rcases resume_cases (.new a) s with ⟨s', -, he⟩ | ⟨pre, act, post, s', k, s'', hbody, hw, hf, hp, he⟩ |
    ⟨pre, act, post, s', s'', -, hw, -, hp, he⟩ <;> rw [he]
  · exact .inr ⟨⟨a, rfl⟩, hst, rfl, rfl, rfl⟩
  · have hact : act ∈ newBody s.cfg :=
      List.mem_of_mem_drop (show act ∈ (bodyOf s.cfg (.new a)).drop s.seq by simp [hbody])
    obtain ⟨es, hstop, -⟩ := perform_raised hf hp
    have hk : k.failFast = false := by
      rcases perform_raised_recoverable hf (newBody_not_raise s.cfg act hact) hp with ⟨e, rfl⟩ | ⟨e, rfl⟩ | rfl <;> rfl
    exact .inl (by simp [hk, hstop.st, hw.st])
  · obtain ⟨hs'', -, -⟩ := perform_waiting hp
    exact .inl (by rw [hs'']; exact hw.st)

/-- Everything the run of an allowed operation can do to the lifecycle state. -/
theorem resume_lifecycle {i : Instr} {s : State} (ha : Allowed i s) :
    KeepsOrFaults s (resume i s) ∨ BringsUp i s (resume i s) := by
  by_cases hnew : ∃ a, i = .new a
  · obtain ⟨a, rfl⟩ := hnew
    exact (resume_new_lifecycle a s ha).imp_left .inl
  · exact .inl (resume_keepsOrFaults (not_exists.1 hnew) s)

/-- Everything an instruction can do to the lifecycle state. -/
theorem exec_lifecycle {i : Instr} {s t : State} (h : exec i s = .next t) : KeepsOrFaults s t ∨ BringsUp i s t := by
  rcases exec_next_cases h with ⟨-, -, rfl⟩ | ⟨-, -, why, rfl⟩ | ⟨-, ha, rfl⟩
  · exact .inl (.inl rfl)
  · exact .inl (raise_keepsOrFaults _ rfl)
  · have hst : (startState i s).st = s.st := by rw [startState_eq]
    rcases resume_lifecycle (allowed_of_same hst (startState_flows i s).cfg ha) with hk | hb
    · exact .inl (by rwa [KeepsOrFaults, hst] at hk)
    · exact .inr { hb with before := hst.symm.trans hb.before }

/-- A Faulted block that is Faulted again has kept its state. -/
theorem KeepsOrFaults.entered {s t : State} (h : KeepsOrFaults s t) :
    t.st = s.st ∨ s.st ≠ .faulted ∧ t.st = .faulted ∧ ∃ k, t.result = some (.err k) ∧ k.failFast = true := by
  rcases h with hst | ⟨ht, hk⟩
  · exact .inl hst
  · by_cases hs : s.st = .faulted
    · exact .inl (ht.trans hs.symm)
    · exact .inr ⟨hs, ht, hk⟩

/-- Settles O47: apart from the reset, a step that changes `st` runs one operation, the one in progress or the one at the
front of the queue. -/
theorem lifecycleTransitions : Obligations.LifecycleTransitions := by
  intro s t hinv h
  rcases step_cases s with ⟨hr, he⟩ | ⟨-, i, hi, he⟩ | ⟨-, -, -, he⟩ | ⟨-, -, p, rest, why, -, -, he⟩ |
    ⟨-, -, p, rest, i, hq, hd, he⟩ <;> rw [he] at h
  · cases h
    exact .inr (.inr (.inr ⟨hr, rfl⟩))
  · cases h
    rcases resume_lifecycle (hinv.allowed i hi) with hk | ⟨⟨a, rfl⟩, hs, ht, hres, hidle⟩
    · exact hk.entered.imp_right fun hf => .inr (.inl hf)
    · exact .inr (.inl ⟨hs, ht, hres, hidle, .inl ⟨a, hi⟩⟩)
  · cases h
    exact .inl rfl
  · cases h
    exact .inl rfl
  · rcases exec_lifecycle h with hk | ⟨⟨a, rfl⟩, hs, ht, hres, hidle⟩
    · exact hk.entered.imp_right fun hf => .inr (.inl hf)
    · exact .inr (.inl ⟨hs, ht, hres, hidle, .inr ⟨p, rest, a, hq, hd⟩⟩)

/-! ### Precision (60_exceptions.md R219) -/

/-- An act that raises adds its failing event, or is itself the raising of the error and adds nothing. -/
theorem perform_raised_failsAs {act : Act} {s t : State} {k : ErrKind} (hf : act.Fits)
    (h : perform act s = .raised k t) :
    (∃ e, Stops [e] s t ∧ Event.FailsAs s.addr e k act) ∨ act = .raise k ∧ Stops [] s t := by
  obtain ⟨es, hs, hcase⟩ := perform_raised hf h
  rcases hcase with ⟨m, r, p, er, rfl, rfl, rfl⟩ | ⟨n, x, er, rfl, rfl, rfl⟩ | ⟨m, r, n, er, rfl, rfl, rfl⟩ |
    ⟨n, id, bs, rfl, rfl, hne, hlen, rfl⟩ | ⟨rfl, rfl⟩
  · exact .inl ⟨_, hs, er, rfl, rfl⟩
  · exact .inl ⟨_, hs, .inl ⟨er, rfl, rfl⟩⟩
  · exact .inl ⟨_, hs, er, rfl, rfl⟩
  · exact .inl ⟨_, hs, .inr ⟨id, bs, rfl, hlen, hne, rfl, rfl⟩⟩
  · exact .inr ⟨rfl, hs⟩

/-- A body that raises an error of its own raises it first, and it is a contract violation. -/
theorem bodyOf_raise_first {c : Config} {i : Instr} {pre post : List Act} {k : ErrKind}
    (h : bodyOf c i = pre ++ .raise k :: post) : pre = [] ∧ ∃ why, k = .contractViolation why := by
  rcases bodyOf_raise c i with hnone | ⟨why, hwhy⟩
  · exact absurd rfl (hnone (.raise k) (by simp [h]) k)
  · obtain ⟨rfl, hcons⟩ | ⟨-, hnil⟩ := List.append_eq_singleton_iff.1 (h.symm.trans hwhy)
    · cases hcons
      exact ⟨rfl, why, rfl⟩
    · exact absurd hnil nofun

/-- Settles O49: the three ends of the run of the body give the three forms of the trace; an error the body raises of its
own stands before any event. -/
theorem traceIsAPrefixOfTheBody : Obligations.TraceIsAPrefixOfTheBody := by
  intro i s t hi h
  rcases exec_next_cases h with ⟨j, hj, -⟩ | ⟨-, -, why, rfl⟩ | ⟨-, -, rfl⟩
  · exact absurd (hj.symm.trans hi) nofun
  · exact .inl ⟨rfl, why, rfl⟩
  have hcfg : (startState i s).cfg = s.cfg := (startState_flows i s).cfg
  have htrace : (startState i s).trace = s.trace := by rw [startState_eq]
  have hcases := resume_cases i (startState i s)
  rw [startState_seq, hcfg, List.drop_zero] at hcases
  rcases hcases with ⟨s', hw, he⟩ | ⟨pre, act, post, s', k, s'', hbody, hw, hf, hp, he⟩ |
    ⟨pre, act, post, s', s'', hbody, hw, -, hp, he⟩ <;> rw [he]
  · obtain ⟨es, hes, hok⟩ := hw.trace
    have hend := finishOf_ends i s'
    refine .inr ⟨_, [], es, (List.append_nil _).symm, ?_, .inl ⟨rfl, hend.current, ?_⟩⟩
    · rwa [hend.addr, hw.addr]
    · rw [hend.trace, hes, htrace]
  · obtain ⟨es, hes, hok⟩ := hw.trace
    rcases perform_raised_failsAs hf hp with ⟨e, hstop, hfails⟩ | ⟨rfl, hstop⟩
    · have haddr : (s''.raise k).addr = s'.addr := hstop.addr
      refine .inr ⟨pre, _, es, hbody, ?_, .inr (.inl ⟨act, post, e, k, rfl, ?_, rfl, ?_, rfl⟩)⟩
      · rwa [haddr, hw.addr]
      · rwa [haddr]
      · rw [State.raise_trace, hstop.trace, hes, htrace]
    · obtain ⟨rfl, why, rfl⟩ := bodyOf_raise_first hbody
      cases hok
      refine .inl ⟨?_, why, rfl⟩
      rw [State.raise_trace, hstop.trace, hes, htrace, List.append_nil, List.append_nil]
  · obtain ⟨es, hes, hok⟩ := hw.trace
    obtain ⟨hs'', -, -⟩ := perform_waiting hp
    rw [hs'']
    refine .inr ⟨pre, _, es, hbody, ?_, .inr (.inr ⟨act, post, rfl, ?_, ?_, ?_⟩)⟩
    · rwa [← hw.addr] at hok
    · exact hw.current.trans (startState_current i s)
    · exact hw.seq.trans (by rw [startState_seq, Nat.zero_add])
    · exact hes.trans (by rw [htrace])

end Sys2Proof.Machine
end

section
/-! PROOFS. Every step keeps what Ready promises (70_reset_and_hazards.md R242, R243): the events of the running operation
follow its body one by one, so that a NEW at its end has a whole bring-up behind it, and nothing later takes that away. -/

namespace Sys2Proof.Machine

/-! ### A bring-up in the trace -/

/-- The events of a whole bring-up to `addr`, all answered `Ok`, stand in the trace. -/
def HasBringUp (s : State) : Prop :=
  ∃ before es after, s.trace = before ++ es ++ after ∧ OkTrace s.addr (newBody s.cfg) es

/-- A bring-up stays in a trace that only grows, while the build and the address stay. -/
theorem HasBringUp.kept {s t : State} (h : HasBringUp s) (hk : Kept s t) : HasBringUp t := by
  obtain ⟨before, es, after, htr, hok⟩ := h
  obtain ⟨more, hmore⟩ := hk.trace
  refine ⟨before, es, after ++ more, ?_, by rwa [hk.addr, hk.cfg]⟩
  rw [← hmore, htr, List.append_assoc]

/-- A NEW in progress after the last act of its body has a whole bring-up behind it. -/
theorem InFlight.hasBringUp {a : DevAddr} {s : State} (h : InFlight s) (hc : s.current = some (.new a))
    (hend : (bodyOf s.cfg (.new a))[s.seq]? = none) : HasBringUp s := by
  obtain ⟨before, es, htr, hok⟩ := h (.new a) hc
  rw [List.take_of_length_le (List.getElem?_eq_none_iff.1 hend)] at hok
  exact ⟨before, es, [], by rw [htr, List.append_nil], hok⟩

/-- The promise passes on to a state that is Ready only if the one before it was. -/
theorem ReadyInv.promise_kept {s t : State} (h : ReadyInv s) (hk : Kept s t) (hst : t.st = .ready → s.st = .ready) :
    t.st = .ready → HasBringUp t :=
  fun ht => HasBringUp.kept (h.promise (hst ht)) hk

theorem ReadyInv.of_idle {s : State} (hc : s.current = none) (h : s.st = .ready → HasBringUp s) : ReadyInv s :=
  ⟨inFlight_of_idle hc, h⟩

/-! ### One event -/

/-- An error ends the operation and makes no block Ready. -/
theorem raise_readyInv {s t : State} (h : ReadyInv s) (hk : Kept s t) (hst : t.st = s.st) (k : ErrKind) :
    ReadyInv (t.raise k) := by
  refine .of_idle rfl (h.promise_kept (hk.trans (raise_kept k t)) fun hready => ?_)
  rcases raise_keepsOrFaults k hst with hkeep | ⟨hfault, -⟩
  · exact hkeep.symm.trans hready
  · exact nomatch hfault.symm.trans hready

/-- Only the end of NEW makes the block Ready, and then the bring-up is whole. -/
theorem finishOf_readyInv {i : Instr} {s : State} (h : ReadyInv s) (hc : s.current = some i)
    (hend : (bodyOf s.cfg i)[s.seq]? = none) : ReadyInv (finishOf i s) := by
  have he := finishOf_ends i s
  refine .of_idle he.current ?_
  rcases he.st with ⟨hst, -, -⟩ | ⟨hst, -⟩ | ⟨-, -, a, rfl⟩
  · exact h.promise_kept he.kept hst.symm.trans
  · exact fun hready => nomatch hst.symm.trans hready
  · exact fun _ => (h.inFlight.hasBringUp hc hend).kept he.kept

theorem eventStep_readyInv {s : State} (h : ReadyInv s) : ReadyInv (eventStep s) := by
  cases hc : s.current with
  | none => rwa [eventStep_idle hc]
  | some i =>
    cases hat : (bodyOf s.cfg i)[s.seq]? with
    | none =>
      rw [eventStep_end hc hat]
      exact finishOf_readyInv h hc hat
    | some act =>
      have hf := bodyOf_fits s.cfg i act (List.mem_of_getElem? hat)
      cases hp : perform act s with
      | done t =>
        rw [eventStep_done hc hat hp]
        have g := perform_done hf hp
        exact ⟨h.inFlight.goes hc hat g, h.promise_kept g.kept g.st.symm.trans⟩
      | raised k t =>
        rw [eventStep_raised hc hat hp]
        obtain ⟨es, hs, -⟩ := perform_raised hf hp
        exact raise_readyInv h hs.kept hs.st k
      | waiting t =>
        rw [eventStep_waiting hc hat hp]
        obtain ⟨ht, -, -⟩ := perform_waiting hp
        rw [ht]
        exact ⟨h.inFlight, h.promise⟩

/-! ### A step -/

theorem resume_readyInv {i : Instr} {s : State} (hc : s.current = some i) (h : ReadyInv s) :
    ReadyInv (resume i s) := by
  rw [resume_eq_iterate hc]
  exact Function.Iterate.rec ReadyInv h (fun _ => eventStep_readyInv) _

/-- A body just started has no event yet; in Ready its operation is no NEW, so the address is the one of the promise. -/
theorem startState_readyInv {i : Instr} {s : State} (h : ReadyInv s) (ha : Allowed i s) :
    ReadyInv (startState i s) := by
  have hst : (startState i s).st = s.st := by rw [startState_eq]
  refine ⟨fun j hj => ⟨(startState i s).trace, [], by simp, by rw [startState_seq]; exact .nil⟩, fun hready => ?_⟩
  have hs : s.st = .ready := hst.symm.trans hready
  have hnew : ∀ a, i ≠ .new a := by
    rintro a rfl
    exact nomatch hs.symm.trans ha
  exact h.promise_kept ⟨startState_flows i s, startState_addr hnew s⟩ hst.symm.trans hready

theorem exec_readyInv {i : Instr} {s t : State} (hinv : ReadyInv s) (h : exec i s = .next t) : ReadyInv t := by
  rcases exec_next_cases h with ⟨-, -, rfl⟩ | ⟨-, -, why, rfl⟩ | ⟨-, ha, rfl⟩
  · exact hinv
  · exact raise_readyInv hinv (Kept.refl s) rfl _
  · exact resume_readyInv (startState_current i s) (startState_readyInv hinv ha)

/-- Settles O56: the reset leaves Ready; an operation, running or just taken, is a number of single events, each of which
keeps the promise; all else a step can do leaves the trace, `addr` and `st` as they are. -/
theorem stepKeepsTheReadyPromise : Obligations.StepKeepsTheReadyPromise := by
  intro s t hinv h
  rcases step_cases s with ⟨-, he⟩ | ⟨-, i, hi, he⟩ | ⟨-, -, -, he⟩ | ⟨-, hn, p, rest, why, -, -, he⟩ |
    ⟨-, hn, p, rest, i, -, -, he⟩ <;> rw [he] at h
  · cases h
    exact .of_idle rfl nofun
  · cases h
    exact resume_readyInv hi hinv
  · cases h
    exact hinv
  · cases h
    exact .of_idle hn hinv.promise
  · exact exec_readyInv (s := { s with cmdIn := rest }) (.of_idle hn hinv.promise) h

end Sys2Proof.Machine
end

section
/-! PROOFS. The request that is never answered (70_reset_and_hazards.md R249), and the reset input (R240, R241). -/

namespace Sys2Proof.Machine

/-! ### An operation that waits -/

/-- With no reset asserted, a step takes the running operation up again. -/
theorem step_of_running {i : Instr} {s : State} (hr : s.resetIn = false) (hc : s.current = some i) :
    step s = .next (resume i s) := by
  simp [step, stepWith, hr, hc]

theorem outstanding_of_running {i : Instr} {s : State} (hc : s.current = some i) :
    outstanding s = (bodyOf s.cfg i)[s.seq]? := by
  simp [outstanding, hc]

/-- An operation whose outstanding act waits comes no further than that act. -/
theorem step_of_waiting {i : Instr} {a : Act} {s t : State} (hr : s.resetIn = false) (hc : s.current = some i)
    (hout : outstanding s = some a) (hp : perform a s = .waiting t) : step s = .next t := by
  rw [outstanding_of_running hc] at hout
  obtain ⟨hlt, rfl⟩ := List.getElem?_eq_some_iff.1 hout
  rw [step_of_running hr hc, resume, List.drop_eq_getElem_cons hlt, runActs_cons_waiting hp]

/-- A delay that does not complete, or a request with no answer to come, waits. -/
theorem perform_of_unanswered {a : Act} {s : State}
    (h : (∃ ms, a = .dly ms) ∧ s.delayIn = 0 ∨ (∀ ms, a ≠ .dly ms) ∧ (∀ k, a ≠ .raise k) ∧ s.busIn = []) :
    ∃ t, perform a s = .waiting t := by
  rcases h with ⟨⟨ms, rfl⟩, hd⟩ | ⟨hdly, hraise, hb⟩
  · exact ⟨s, perform_dly_wait ms s hd⟩
  · cases a with
    | tw m r p => exact ⟨_, perform_tw_wait m r p s hb⟩
    | tr n x => exact ⟨s, perform_tr_wait n x s hb⟩
    | twr m r n => exact ⟨_, perform_twr_wait m r n s hb⟩
    | dly ms => exact absurd rfl (hdly ms)
    | raise k => exact absurd rfl (hraise k)

/-- Settles O8: the act waits, and it waits again from the state it leaves, which differs in the frame buffer only. -/
theorem unansweredRequestHoldsTheBlock : Obligations.UnansweredRequestHoldsTheBlock := by
  intro s i a hr hc hout hun
  obtain ⟨t, hp⟩ := perform_of_unanswered hun
  obtain ⟨ht, hp', -⟩ := perform_waiting hp
  refine ⟨t, step_of_waiting hr hc hout hp, ht, ?_⟩
  have hrt : t.resetIn = false := by rw [ht]; exact hr
  have hct : t.current = some i := by rw [ht]; exact hc
  have hot : outstanding t = some a := by rw [ht]; exact hout
  exact step_of_waiting hrt hct hot hp'

/-! ### The reset input -/

/-- The reset input comes before all else a step could do (70_reset_and_hazards.md R240). -/
theorem step_of_reset {s : State} (hr : s.resetIn = true) : step s = .next s.applyReset := by
  simp [step, stepWith, hr]

/-- Settles O2: the step is the taking of the reset input, whose fields are as stated. -/
theorem resetInputAbandonsTheOperation : Obligations.ResetInputAbandonsTheOperation := by
  intro s hr
  exact ⟨s.applyReset, step_of_reset hr, s.applyReset_st, s.applyReset_current, s.applyReset_seq, s.applyReset_result,
    s.applyReset_resetIn, s.applyReset_trace, s.applyReset_busIn, s.applyReset_delayIn, s.applyReset_cmdIn,
    s.applyReset_cfg⟩

end Sys2Proof.Machine
end
